-- ==== Sys2Proof/Word.lean ====
section
/-! DEFINITION. The word types of the block (00_scope.md R7, R9, 10_state.md R20, 30_encoding.md R80, R87). -/

namespace Sys2Proof

/-- One command of the host (R80). -/
abbrev CommandWord := BitVec 48

/-- One response of the block, read as two's complement (R87). -/
abbrev Response := BitVec 64

/-- A channel code, 0 to 4095 (R21). -/
abbrev Code := BitVec 12

/-- The reference voltage in microvolts (R22). -/
abbrev Microvolts := BitVec 22

/-- The gain register, holding the number itself (R23). -/
abbrev Gain := BitVec 2

/-- The bus clock word, never interpreted (R24). -/
abbrev ClockWord := BitVec 32

/-- The identifier of a line (R7). -/
abbrev PinId := BitVec 8

/-- One byte of the wire frame (R59). -/
abbrev Byte := BitVec 8

end Sys2Proof
end

