-- ==== Sys2Proof/Config.lean ====
section
/-! DEFINITION. The source's constants (00_scope.md R6), the pin configuration (R7), the open parameters (R8)
and the one free value (44_conversion.md R154). -/

namespace Sys2Proof

/-- The construction-time pin assignment (R7, R29): "set once at construction, immutable thereafter". -/
structure PinConfig where
  /-- `CS_PIN`: the chip-select line. -/
  csPin : PinId
  /-- `CLR_PRESENT`: whether a hardware-clear line is configured; pin 0 is an ordinary pin (90_conflicts.md C4). -/
  clrPresent : Bool
  /-- `CLR_PIN`: meaningful only when `clrPresent`. -/
  clrPin : PinId
  deriving DecidableEq, Repr

/-- R7: "When `CLR_PRESENT`, `CLR_PIN ≠ CS_PIN` is required of the configuration". -/
def PinConfig.valid (p : PinConfig) : Bool := !(p.clrPresent && p.clrPin == p.csPin)

/-- `CODE_MAX` (R6): the largest code, the clamp bound of a channel register. -/
def Config.codeMax : Int := 4095

/-- `SCALE` (R6): the divisor of both conversion formulas (90_conflicts.md C1: not 4095). -/
def Config.scale : Int := 4096

/-- `VREF_MAX` in microvolts (R6, R9); `VREF_MIN` is 0. -/
def Config.vrefMax : Int := 2700000

/-- `VREF_DEFAULT` in microvolts (R6, R9). -/
def Config.vrefDefault : Int := 2048000

/-- `GAIN_MIN` (R6). -/
def Config.gainMin : Int := 1

/-- `GAIN_MAX` (R6). -/
def Config.gainMax : Int := 2

/-- `GAIN_DEFAULT` (R6). -/
def Config.gainDefault : Int := 2

/-- `CLR_HOLD_UNITS` (R6): the least low time of the clear pulse, in time units. -/
def Config.clrHoldUnits : Nat := 10

/-- `TIME_UNIT` (R8): the duration of one time unit, open; counted in any unit of time one likes.
No rule of the block reads it. Log entry 18. -/
opaque Config.timeUnit : Nat

/-- `CLK_RESET` (R8): the value of `clk` after reset, open: the source gives the clock word no default.
A constant with no body, so that nothing proved rests on a value of it. Log entry 3. -/
opaque Config.clkReset : ClockWord

/-- The free value of R154: the result of the voltage-to-code conversion with `D = 0`, "any 64-bit value, not
necessarily the same on two executions"; applied to the draw counter of State. Log entry 6. -/
opaque Config.freeConversion : Nat → Response

/-- The pin assignment of `State.reset`: the spec's suggestion for tests (92_eei_decisions.md, open parameters),
`CS_PIN = 5`, no clear line. DESIGN CHOICE, log entry 2. -/
def Config.scenarioPins : PinConfig := { csPin := 5, clrPresent := false, clrPin := 0 }

end Sys2Proof
end

