-- ==== Sys2Proof/Syntax.lean ====
section
/-! DEFINITION. The twelve commands of 30_encoding.md R83, one constructor each, with their operands as R82 reads
them: a code, a voltage and a gain are integers, a selector is a name. -/

namespace Sys2Proof

/-- One of "the two independent DAC outputs (A or B)" (R15). -/
inductive Channel where
  | a
  | b
  deriving DecidableEq, Repr

/-- The channel selector of SET and SETV (R82 a): A, B or both, "the source's broadcast form". -/
inductive Selector where
  | a
  | b
  | both
  deriving DecidableEq, Repr

/-- Whether the selector writes the channel (R120). -/
def Selector.covers : Selector → Channel → Bool
  | .a, .a => true
  | .a, .b => false
  | .b, .a => false
  | .b, .b => true
  | .both, _ => true

/-- The commands of R83, in the order of their opcodes 0x1 to 0xC. -/
inductive Instr where
  /-- INIT `V`, `g` (40_lifecycle.md R111). -/
  | init (V g : Int)
  /-- SET `sel`, `code` (41_channel_access.md R120). -/
  | set (sel : Selector) (code : Int)
  /-- GET `sel` (41_channel_access.md R121): A or B only. -/
  | get (ch : Channel)
  /-- UPDATE (42_update.md R132). -/
  | update
  /-- CLEAR (43_clear.md R140). -/
  | clear
  /-- TOVOLT `code` (44_conversion.md R151). -/
  | toVolt (code : Int)
  /-- TOCODE `V` (44_conversion.md R152). -/
  | toCode (V : Int)
  /-- SETV `sel`, `V` (44_conversion.md R155). -/
  | setV (sel : Selector) (V : Int)
  /-- SETVREF `V` (45_parameters.md R170). -/
  | setVref (V : Int)
  /-- SETGAIN `g` (45_parameters.md R171). -/
  | setGain (g : Int)
  /-- SETCLK `k` (45_parameters.md R172). -/
  | setClk (k : ClockWord)
  /-- TEARDOWN (40_lifecycle.md R113). -/
  | teardown
  deriving DecidableEq, Repr

/-- The pseudo-instruction INITD (R90): `INIT 2048000, 2`, "the source's `init()` with its defaults". -/
def Instr.initd : Instr := .init Config.vrefDefault Config.gainDefault

/-- The pseudo-instruction SETALL (R90): `SET AB, code`. -/
def Instr.setAll (code : Int) : Instr := .set .both code

end Sys2Proof
end

