-- ==== Sys2Proof/WellFormed.lean ====
section
/-! DEFINITION. Which commands have an encoding: each integer operand lies in the range of its field
(30_encoding.md R82). Illegal selectors cannot be written (Syntax.lean). -/

namespace Sys2Proof

/-- A code or voltage operand: `imm`, 32 bits two's complement (R82 b, c). -/
def fitsImm (x : Int) : Bool := decide (-2147483648 ≤ x) && decide (x ≤ 2147483647)

/-- A gain operand: `aux`, 8 bits two's complement (R82 d). -/
def fitsAux (x : Int) : Bool := decide (-128 ≤ x) && decide (x ≤ 127)

/-- Every operand is in the range its field can hold. -/
def Instr.wellFormed : Instr → Bool
  | .init V g => fitsImm V && fitsAux g
  | .set _ code => fitsImm code
  | .get _ => true
  | .update => true
  | .clear => true
  | .toVolt code => fitsImm code
  | .toCode V => fitsImm V
  | .setV _ V => fitsImm V
  | .setVref V => fitsImm V
  | .setGain g => fitsAux g
  | .setClk _ => true
  | .teardown => true

end Sys2Proof
end

