-- ==== Sys2Proof/Decode.lean ====
section
/-! DEFINITION. The command word (30_encoding.md R80 to R86): its fields, the decoder, total on every 48-bit word and
naming what it refuses, the encoder, and the assembler's text (R89). -/

namespace Sys2Proof

/-- `op = cmd[47:44]` (R80). -/
def opField (w : CommandWord) : BitVec 4 := w.extractLsb' 44 4

/-- `sel = cmd[43:42]` (R80). -/
def selField (w : CommandWord) : BitVec 2 := w.extractLsb' 42 2

/-- `aux = cmd[39:32]` (R80). -/
def auxField (w : CommandWord) : BitVec 8 := w.extractLsb' 32 8

/-- `imm = cmd[31:0]` (R80). -/
def immField (w : CommandWord) : BitVec 32 := w.extractLsb' 0 32

/-- Why a word is reserved (R85). -/
inductive Reserved where
  /-- `op` in {0x0, 0xD, 0xE, 0xF}. -/
  | opcode (op : BitVec 4)
  /-- SET or SETV with `sel = 00`: no channel. -/
  | noChannel
  /-- GET with `sel = 00` or `sel = 11`: not one channel. -/
  | notOneChannel
  deriving DecidableEq, Repr

/-- What a word decodes to: "one of the twelve commands or RESERVED" (R84). -/
inductive Decoded where
  | instr (i : Instr)
  | reserved (why : Reserved)
  deriving DecidableEq, Repr

/-- The selector of SET and SETV (R82 a); none for `00`. -/
def decodeSelector (sel : BitVec 2) : Option Selector :=
  match sel.toNat with
  | 1 => some .a
  | 2 => some .b
  | 3 => some .both
  | _ => none

/-- The selector of GET (R82 a); none for `00` and `11`. -/
def decodeChannel (sel : BitVec 2) : Option Channel :=
  match sel.toNat with
  | 1 => some .a
  | 2 => some .b
  | _ => none

/-- A command that needs a channel selector: reserved when there is none (R84, R85). -/
def withSelector (sel : BitVec 2) (f : Selector → Instr) : Decoded :=
  match decodeSelector sel with
  | some c => .instr (f c)
  | none => .reserved .noChannel

/-- GET's selector names one channel, or the word is reserved (R84, R85). -/
def withChannel (sel : BitVec 2) (f : Channel → Instr) : Decoded :=
  match decodeChannel sel with
  | some c => .instr (f c)
  | none => .reserved .notOneChannel

/-- The decoder of R84; `sext` of a field is its two's-complement reading (R10). -/
def decode (w : CommandWord) : Decoded :=
  match (opField w).toNat with
  | 1 => .instr (.init (immField w).toInt (auxField w).toInt)
  | 2 => withSelector (selField w) (fun c => .set c (immField w).toInt)
  | 3 => withChannel (selField w) .get
  | 4 => .instr .update
  | 5 => .instr .clear
  | 6 => .instr (.toVolt (immField w).toInt)
  | 7 => .instr (.toCode (immField w).toInt)
  | 8 => withSelector (selField w) (fun c => .setV c (immField w).toInt)
  | 9 => .instr (.setVref (immField w).toInt)
  | 10 => .instr (.setGain (auxField w).toInt)
  | 11 => .instr (.setClk (immField w))
  | 12 => .instr .teardown
  | _ => .reserved (.opcode (opField w))

/-- The command word from its fields, `z` written 0 (R80). -/
def commandWord (op : BitVec 4) (sel : BitVec 2) (aux : BitVec 8) (imm : BitVec 32) : CommandWord :=
  op ++ sel ++ (0 : BitVec 2) ++ aux ++ imm

/-- The selector's two bits (R82 a): one bit per channel. -/
def encodeSelector : Selector → BitVec 2
  | .a => 1
  | .b => 2
  | .both => 3

/-- GET's two selector bits (R82 a). -/
def encodeChannel : Channel → BitVec 2
  | .a => 1
  | .b => 2

/-- The opcode of R83. -/
def Instr.opcode : Instr → BitVec 4
  | .init _ _ => 0x1
  | .set _ _ => 0x2
  | .get _ => 0x3
  | .update => 0x4
  | .clear => 0x5
  | .toVolt _ => 0x6
  | .toCode _ => 0x7
  | .setV _ _ => 0x8
  | .setVref _ => 0x9
  | .setGain _ => 0xA
  | .setClk _ => 0xB
  | .teardown => 0xC

/-- The word an assembler writes for a command (R80, R83), every unused field 0 (R86). -/
def encode (i : Instr) : CommandWord :=
  match i with
  | .init V g => commandWord 0x1 0 (BitVec.ofInt 8 g) (BitVec.ofInt 32 V)
  | .set sel code => commandWord 0x2 (encodeSelector sel) 0 (BitVec.ofInt 32 code)
  | .get ch => commandWord 0x3 (encodeChannel ch) 0 0
  | .update => commandWord 0x4 0 0 0
  | .clear => commandWord 0x5 0 0 0
  | .toVolt code => commandWord 0x6 0 0 (BitVec.ofInt 32 code)
  | .toCode V => commandWord 0x7 0 0 (BitVec.ofInt 32 V)
  | .setV sel V => commandWord 0x8 (encodeSelector sel) 0 (BitVec.ofInt 32 V)
  | .setVref V => commandWord 0x9 0 0 (BitVec.ofInt 32 V)
  | .setGain g => commandWord 0xA 0 (BitVec.ofInt 8 g) 0
  | .setClk k => commandWord 0xB 0 0 k
  | .teardown => commandWord 0xC 0 0 0

/-- The pseudo-instruction NOP (R90): the all-zero word, reserved. -/
def nopWord : CommandWord := 0

/-- The fields each format uses (R81), as the bits of the word a decoder may read: `op` always, `sel`, `aux`, `imm`
as the format says, `z` never (R86). -/
def usedBits (op : BitVec 4) : CommandWord :=
  match op.toNat with
  | 1 => commandWord 0xF 0 0xFF 0xFFFFFFFF
  | 2 => commandWord 0xF 3 0 0xFFFFFFFF
  | 3 => commandWord 0xF 3 0 0
  | 6 => commandWord 0xF 0 0 0xFFFFFFFF
  | 7 => commandWord 0xF 0 0 0xFFFFFFFF
  | 8 => commandWord 0xF 3 0 0xFFFFFFFF
  | 9 => commandWord 0xF 0 0 0xFFFFFFFF
  | 10 => commandWord 0xF 0 0xFF 0
  | 11 => commandWord 0xF 0 0 0xFFFFFFFF
  | _ => commandWord 0xF 0 0 0

/-- The decoder on a row of spec/opcode_table.json: the 48-bit command is one word on one port with no byte order
(20_memory.md R59), so its bits are the table's bits. Log entry 17. -/
def decodeTableWord (nbits w : Nat) : Option Instr :=
  match decode (BitVec.ofNat 48 (w % 2 ^ nbits)) with
  | .instr i => some i
  | .reserved _ => none

/-- A selector in the assembler's text (R89). -/
def Selector.asm : Selector → String
  | .a => "A"
  | .b => "B"
  | .both => "AB"

/-- A channel in the assembler's text (R89). -/
def Channel.asm : Channel → String
  | .a => "A"
  | .b => "B"

/-- The assembler's text of a command (R89), operands in decimal. -/
def Instr.asm : Instr → String
  | .init V g => "INIT " ++ toString V ++ ", " ++ toString g
  | .set sel code => "SET " ++ sel.asm ++ ", " ++ toString code
  | .get ch => "GET " ++ ch.asm
  | .update => "UPDATE"
  | .clear => "CLEAR"
  | .toVolt code => "TOVOLT " ++ toString code
  | .toCode V => "TOCODE " ++ toString V
  | .setV sel V => "SETV " ++ sel.asm ++ ", " ++ toString V
  | .setVref V => "SETVREF " ++ toString V
  | .setGain g => "SETGAIN " ++ toString g
  | .setClk k => "SETCLK " ++ toString k.toNat
  | .teardown => "TEARDOWN"

end Sys2Proof
end

