-- ==== Sys2Proof/Machine/State.lean ====
section
/-! DEFINITION. The state of the block (10_state.md R20), its configuration (00_scope.md R7), what is observed of it
(R13, R14, R34), and the reset state (R31). -/

namespace Sys2Proof.Machine

/-- The level of a line (R13). -/
inductive Level where
  | low
  | high
  deriving DecidableEq, Repr

/-- An event (R13): one call on a capability, or the one timed wait. -/
inductive Event where
  /-- SerialBus `begin()`: acquire the bus. -/
  | busBegin
  /-- SerialBus `end()`: release the bus. -/
  | busEnd
  /-- SerialBus `beginTransaction(config)`, config = (clock word, MSB-first, mode 0). -/
  | txnBegin (k : ClockWord)
  /-- SerialBus `transfer(byte)`; the returned byte is discarded (R58). -/
  | transfer (b : Byte)
  /-- SerialBus `endTransaction()`. -/
  | txnEnd
  /-- DigitalPin `setMode(pin, OUTPUT)`. -/
  | pinMode (p : PinId)
  /-- DigitalPin `setLevel(pin, level)`. -/
  | pinLevel (p : PinId) (l : Level)
  /-- The block itself waits at least `n` time units. -/
  | delay (n : Nat)
  deriving DecidableEq, Repr

/-- What the outside does to the block between two commands; the model's own type, log entries 5, 12, 13. -/
inductive Input where
  /-- The host presents a command word (R52). -/
  | command (w : CommandWord)
  /-- Reset is asserted and the straps are sampled (R210). -/
  | reset (pins : PinConfig)
  /-- From here on the capabilities complete events, or never complete one (R186). -/
  | capabilities (answer : Bool)
  deriving DecidableEq, Repr

/-- The block's state record (R20), its configuration (R7), the observation since reset (R14), and the model's own
fields. -/
structure State where
  /-- `ch[A]`, the last code requested for channel A (R21). -/
  chA : Code
  /-- `ch[B]`, the last code requested for channel B (R21). -/
  chB : Code
  /-- `vref`, microvolts (R22). -/
  vref : Microvolts
  /-- `gain`, the number itself (R23). -/
  gain : Gain
  /-- `clk`, opaque (R24). -/
  clk : ClockWord
  /-- `initialized` (R25). -/
  initialized : Bool
  /-- `destroyed` (R26). -/
  destroyed : Bool
  /-- The configuration sampled at reset (R7, R29); no command changes it. Log entry 1. -/
  pins : PinConfig
  /-- The environment's, not the block's: whether the capabilities complete events (R186). Log entry 12. -/
  capabilitiesAnswer : Bool
  /-- The model's own: what the outside does next, the next first. Log entry 5. -/
  inputs : List Input
  /-- The event trace since reset, oldest first (R34). Log entry 8. -/
  trace : List Event
  /-- The responses since reset, oldest first (R14). Log entry 8. -/
  responses : List Response
  /-- The model's own: how many free values have been drawn (R154). Log entry 6. -/
  draws : Nat
  deriving DecidableEq, Repr

/-- The block raises no exception (R180): the one fault is the environment's. -/
inductive Fault where
  /-- Raised by a command that emits an event while the capabilities never complete one: "it is stuck, not
  faulted" (R186, 93_implementation_defined.md U4). Safe: the model stops where the hardware waits for ever. -/
  | capabilityStuck
  deriving DecidableEq, Repr

/-- Why the machine has no step. -/
inductive Refusal where
  /-- An instruction without a meaning, by its mnemonic; raised by no arm of this model. Safe. -/
  | notModelled (mnemonic : String)
  /-- Raised for every command presented while `destroyed = 1`: "a model refuses a command presented to a destroyed
  block" (R114, U2). Safe: the spec gives no behaviour. -/
  | destroyed
  /-- Raised for every step of a block whose straps name one line twice: "a model refuses a configuration that breaks
  it" (R7, D24, U9). Safe: the spec gives no behaviour. -/
  | invalidConfiguration
  deriving DecidableEq, Repr

/-- The state after reset (R31, R210 to R212) with the given straps and the given value of `CLK_RESET`; nothing has
been emitted or answered. The free-value counter starts at 0, log entry 6. -/
def State.resetWith (pins : PinConfig) (clk : ClockWord) : State where
  chA := 0
  chB := 0
  vref := 2048000
  gain := 2
  clk := clk
  initialized := false
  destroyed := false
  pins := pins
  capabilitiesAnswer := true
  inputs := []
  trace := []
  responses := []
  draws := 0

/-- The machine right after reset (R31), with the source's scenario's straps (log entry 2) and the open parameter
`CLK_RESET` (log entry 3). -/
def State.reset : State := State.resetWith Config.scenarioPins Config.clkReset

/-- `cmd_ready` between commands (R52, R54): the block takes a command unless it is destroyed. -/
def State.cmdReady (s : State) : Bool := !s.destroyed

/-- What a meaning answers. -/
abbrev Answer := Host.Outcome State Fault Refusal

end Sys2Proof.Machine
end

