-- ==== Sys2Proof/Machine/Operands.lean ====
section
/-! DEFINITION. The arithmetic of the operands (00_scope.md R11): the clamps of every stored value, the channel
registers by name and by selector, and the voltage and code conversions (44_conversion.md R150 to R153). -/

namespace Sys2Proof.Machine

/-- `clamp(x, lo, hi)` (R11): "it is total and never rejects". -/
def clamp (x lo hi : Int) : Int :=
  if x < lo then lo else if hi < x then hi else x

/-- A code as a channel register stores it: clamped as a whole, then 12 bits (R120, R123). -/
def clampCode (c : Int) : Code := BitVec.ofInt 12 (clamp c 0 Config.codeMax)

/-- A reference voltage as `vref` stores it (R170). -/
def clampVref (V : Int) : Microvolts := BitVec.ofInt 22 (clamp V 0 Config.vrefMax)

/-- A gain as `gain` stores it (R171). -/
def clampGain (g : Int) : Gain := BitVec.ofInt 2 (clamp g Config.gainMin Config.gainMax)

/-- `ch[c]` (R12, R21). -/
def State.channel (s : State) : Channel → Code
  | .a => s.chA
  | .b => s.chB

/-- `ch[c] <- v` for every channel the selector covers (R120). -/
def State.setChannels (s : State) (sel : Selector) (v : Code) : State :=
  { s with
    chA := if sel.covers .a then v else s.chA
    chB := if sel.covers .b then v else s.chB }

/-- `D = vref × gain` in microvolts (R150): 4096 times the LSB voltage. -/
def State.fullScale (s : State) : Int := (s.vref.toNat : Int) * (s.gain.toNat : Int)

/-- The code-to-voltage conversion (R151): the numerator over 4096, exact. -/
def codeToVolt (D code : Int) : Int := code * D

/-- The voltage-to-code conversion for `D ≠ 0` (R152): `round_hu(V × 4096 / D)` in integers, that is
`tdiv(8192 × V + D, 2 × D)`. -/
def voltToCode (D V : Int) : Int := Int.tdiv (2 * Config.scale * V + D) (2 * D)

/-- A draw of the free value of R154: the counter moves on, so that two draws need not agree. -/
def State.draw (s : State) : Int × State :=
  ((Config.freeConversion s.draws).toInt, { s with draws := s.draws + 1 })

/-- "The value TOCODE(V) would answer" (R152, R155): the conversion, or a draw when `D = 0` (R154). -/
def State.convert (s : State) (V : Int) : Int × State :=
  if s.fullScale = 0 then s.draw else (voltToCode s.fullScale V, s)

end Sys2Proof.Machine
end

