-- ==== Sys2Proof/Machine/Flags.lean ====
section
/-! DEFINITION. The two lifecycle flags (10_state.md R25, R26) and what they gate (40_lifecycle.md R110, R115). The
block has no condition codes (R30). -/

namespace Sys2Proof.Machine

/-- `initialized <- 1` (R111); nothing but reset clears it (R25). -/
def State.markInitialized (s : State) : State := { s with initialized := true }

/-- `destroyed <- 1` (R113); nothing but reset clears it (R26). -/
def State.markDestroyed (s : State) : State := { s with destroyed := true }

/-- "if initialized = 1 then ..." (R115): the gate of everything that reaches outside the block. -/
def State.ifInitialized (s : State) (act : State → State) : State :=
  if s.initialized then act s else s

/-- "the bus is held exactly when `initialized = 1` and `destroyed = 0`" (R25). -/
def State.busHeld (s : State) : Bool := s.initialized && !s.destroyed

end Sys2Proof.Machine
end

