-- ==== Sys2Proof/Machine/Ops.lean ====
section
/-! DEFINITION. The shared operations: emitting events (00_scope.md R12, R13), the wire-frame packer (42_update.md R130,
R131), the frame, pulse and clear sequences (R132, R140, R141), the acceptance of a command (20_memory.md R52,
40_lifecycle.md R114), reset as an input (R210), and the reserved word (R85).
There is no exception to take and none to return from (60_exceptions.md R180, R185), so no such operation stands here. -/

namespace Sys2Proof.Machine

/-- `emit(e)` for each event of the list in turn (R12, R63). -/
def State.emit (s : State) (es : List Event) : State := { s with trace := s.trace ++ es }

/-- `pack(a, b)` (R130): the three bytes of the frame, the first sent first. -/
def pack (a b : Code) : Byte × Byte × Byte :=
  ((a >>> 4).setWidth 8,
   ((a &&& 0xF#12) <<< 4 ||| b >>> 8).setWidth 8,
   (b &&& 0xFF#12).setWidth 8)

/-- `unpack(b1, b2, b3)` (R131). -/
def unpack (b1 b2 b3 : Byte) : Code × Code :=
  (b1.setWidth 12 <<< 4 ||| b2.setWidth 12 >>> 4,
   (b2.setWidth 12 &&& 0xF#12) <<< 8 ||| b3.setWidth 12)

/-- The seven events of one frame (R132): everything inside one transaction, chip-select low around three transfers. -/
def frameEvents (cs : PinId) (clk : ClockWord) (frame : Byte × Byte × Byte) : List Event :=
  [.txnBegin clk, .pinLevel cs .low, .transfer frame.1, .transfer frame.2.1, .transfer frame.2.2,
   .pinLevel cs .high, .txnEnd]

/-- The body of UPDATE (R132): the frame of the registers as they are now, if initialized. -/
def State.sendFrame (s : State) : State :=
  s.ifInitialized fun s => s.emit (frameEvents s.pins.csPin s.clk (pack s.chA s.chB))

/-- HWCLEAR (R141): the pulse on the clear line, low for at least ten time units. -/
def State.hwClear (s : State) : State :=
  s.emit [.pinLevel s.pins.clrPin .low, .delay Config.clrHoldUnits, .pinLevel s.pins.clrPin .high]

/-- The part of CLEAR that reaches outside the block (R140): the pulse where a clear line exists, else the electrical
clear, which is the body of UPDATE on the zeroed registers (R142). -/
def State.clearChip (s : State) : State :=
  if s.pins.clrPresent then s.hwClear else s.sendFrame

/-- The body of CLEAR (R140): zero first, then `initialized`, then `CLR_PRESENT`. -/
def State.clearAll (s : State) : State :=
  (s.setChannels .both 0).ifInitialized State.clearChip

/-- The body of SETVREF (R170), which INIT calls too (R111, R173). -/
def State.storeVref (s : State) (V : Int) : State := { s with vref := clampVref V }

/-- The body of SETGAIN (R171), which INIT calls too (R111, R173). -/
def State.storeGain (s : State) (g : Int) : State := { s with gain := clampGain g }

/-- The body of SETCLK (R172). -/
def State.storeClk (s : State) (k : ClockWord) : State := { s with clk := k }

/-- The body of SET (R120), which SETV calls too (R155). -/
def State.storeCode (s : State) (sel : Selector) (code : Int) : State := s.setChannels sel (clampCode code)

/-- The acquisition of INIT (R111): once per life, before everything else. -/
def State.acquireBus (s : State) : State :=
  if s.initialized then s else (s.emit [.busBegin]).markInitialized

/-- One line made an output, then driven HIGH (R111 b). -/
def lineSetup (p : PinId) : List Event := [.pinMode p, .pinLevel p .high]

/-- The line set-up of INIT (R111): chip-select, then the clear line where there is one. -/
def State.setupLines (s : State) : State :=
  let s := s.emit (lineSetup s.pins.csPin)
  if s.pins.clrPresent then s.emit (lineSetup s.pins.clrPin) else s

/-- The release of TEARDOWN (R113): "only if it was acquired". -/
def State.releaseBus (s : State) : State := s.ifInitialized fun s => s.emit [.busEnd]

/-- A response as its 64-bit word (R87). -/
def response (r : Int) : Response := BitVec.ofInt 64 r

/-- `rsp <- r` (R12): the one response of a command. -/
def State.respond (s : State) (r : Response) : State := { s with responses := s.responses ++ [r] }

/-- The environment's part (R186): the events between `s` and `t` complete, or the block is stuck. -/
def capabilitiesComplete (s t : State) : Bool :=
  s.capabilitiesAnswer || t.trace.length == s.trace.length

/-- The acceptance of a command and its one atomic step (R14, R52): refused in a configuration that is none (R7) and
after TEARDOWN (R114); else the body runs whole and the command answers once, given that each event completes. -/
def accept (s : State) (body : State → State × Response) : Answer :=
  if s.pins.valid = false then .refused .invalidConfiguration
  else if s.destroyed then .refused .destroyed
  else if capabilitiesComplete s (body s).1 then .next ((body s).1.respond (body s).2)
  else .fault .capabilityStuck

/-- A reserved word (R85): accepted, a no-op that answers 0. -/
def execReserved (s : State) : Answer := accept s fun s => (s, response 0)

/-- Reset as an input between commands (R210): the straps are sampled, every state element takes its reset value, the
trace and the responses begin anew; a configuration that is none is refused (R7). What is the environment's or the
model's own (inputs, capabilities, draws) goes on. Log entries 8, 13. -/
def State.assertReset (s : State) (pins : PinConfig) : Answer :=
  if pins.valid then
    .next { State.resetWith pins Config.clkReset with
            capabilitiesAnswer := s.capabilitiesAnswer, inputs := s.inputs, draws := s.draws }
  else .refused .invalidConfiguration

/-- The capabilities begin or cease to complete events (R186); the block is not touched. Log entry 12. -/
def State.setCapabilities (s : State) (answer : Bool) : Answer :=
  .next { s with capabilitiesAnswer := answer }

/-- No input: the block waits and nothing changes (R27, R183). Log entry 5. -/
def State.idle (s : State) : Answer :=
  if s.pins.valid then .next s else .refused .invalidConfiguration

/-- A command word, run: the decoded command by `exec`, or the reserved word's no-op (R84, R85). -/
def runDecoded (exec : Instr → State → Answer) (d : Decoded) (s : State) : Answer :=
  match d with
  | .instr i => exec i s
  | .reserved _ => execReserved s

end Sys2Proof.Machine
end

