-- ==== Sys2Proof/Machine/Access.lean ====
section
/-! DEFINITION. SET and GET (41_channel_access.md R120, R121). -/

namespace Sys2Proof.Machine

/-- SET `sel`, `code` (R120): clamp the code and store it in each selected register. -/
def execSet (sel : Selector) (code : Int) (s : State) : Answer :=
  accept s fun s => (s.storeCode sel code, response 0)

/-- GET `sel` (R121): answer the register, zero-extended. -/
def execGet (ch : Channel) (s : State) : Answer :=
  accept s fun s => (s, (s.channel ch).setWidth 64)

end Sys2Proof.Machine
end

