-- ==== Sys2Proof/Machine/Conversion.lean ====
section
/-! DEFINITION. TOVOLT, TOCODE and SETV (44_conversion.md R151, R152, R155). -/

namespace Sys2Proof.Machine

/-- TOVOLT `code` (R151): answer `code × vref × gain`, the voltage over 4096, unclamped. -/
def execToVolt (code : Int) (s : State) : Answer :=
  accept s fun s => (s, response (codeToVolt s.fullScale code))

/-- TOCODE `V` (R152): answer the code nearest the voltage, unclamped; a free value with `D = 0` (R154). -/
def execToCode (V : Int) (s : State) : Answer :=
  accept s fun s => ((s.convert V).2, response (s.convert V).1)

/-- SETV `sel`, `V` (R155): TOCODE's value, then SET's clamp and store, the one value for both channels. -/
def execSetV (sel : Selector) (V : Int) (s : State) : Answer :=
  accept s fun s => ((s.convert V).2.storeCode sel (s.convert V).1, response 0)

end Sys2Proof.Machine
end

