-- ==== Sys2Proof/Machine/Lifecycle.lean ====
section
/-! DEFINITION. INIT and TEARDOWN (40_lifecycle.md R111 to R113). -/

namespace Sys2Proof.Machine

/-- INIT `V`, `g` (R111, R112): acquire once, set up the lines, store the parameters through the clamps, clear. -/
def execInit (V g : Int) (s : State) : Answer :=
  accept s fun s =>
    let s := s.acquireBus
    let s := s.setupLines
    let s := s.storeVref V
    let s := s.storeGain g
    (s.clearAll, response 0)

/-- TEARDOWN (R113): release the bus if it was acquired; the block's life is over. -/
def execTeardown (s : State) : Answer :=
  accept s fun s => (s.releaseBus.markDestroyed, response 0)

end Sys2Proof.Machine
end

