-- ==== Sys2Proof/Machine/Parameters.lean ====
section
/-! DEFINITION. SETVREF, SETGAIN and SETCLK (45_parameters.md R170 to R172). -/

namespace Sys2Proof.Machine

/-- SETVREF `V` (R170). -/
def execSetVref (V : Int) (s : State) : Answer :=
  accept s fun s => (s.storeVref V, response 0)

/-- SETGAIN `g` (R171). -/
def execSetGain (g : Int) (s : State) : Answer :=
  accept s fun s => (s.storeGain g, response 0)

/-- SETCLK `k` (R172). -/
def execSetClk (k : ClockWord) (s : State) : Answer :=
  accept s fun s => (s.storeClk k, response 0)

end Sys2Proof.Machine
end

