-- ==== Sys2Proof/Machine/Update.lean ====
section
/-! DEFINITION. UPDATE (42_update.md R132) and CLEAR (43_clear.md R140). -/

namespace Sys2Proof.Machine

/-- UPDATE (R132, R133): send both codes to the chip, if initialized; no state of the block changes. -/
def execUpdate (s : State) : Answer :=
  accept s fun s => (s.sendFrame, response 0)

/-- CLEAR (R140): zero both registers, then the chip, if initialized. -/
def execClear (s : State) : Answer :=
  accept s fun s => (s.clearAll, response 0)

end Sys2Proof.Machine
end

