-- ==== Sys2Proof/Machine/Dispatch.lean ====
section
/-! DEFINITION. One arm per command (30_encoding.md R83). -/

namespace Sys2Proof.Machine

/-- The meaning of each command. -/
def exec (i : Instr) (s : State) : Host.Outcome State Fault Refusal :=
  match i with
  | .init V g => Sys2Proof.Machine.execInit V g s
  | .set sel code => Sys2Proof.Machine.execSet sel code s
  | .get ch => Sys2Proof.Machine.execGet ch s
  | .update => Sys2Proof.Machine.execUpdate s
  | .clear => Sys2Proof.Machine.execClear s
  | .toVolt code => Sys2Proof.Machine.execToVolt code s
  | .toCode V => Sys2Proof.Machine.execToCode V s
  | .setV sel V => Sys2Proof.Machine.execSetV sel V s
  | .setVref V => Sys2Proof.Machine.execSetVref V s
  | .setGain g => Sys2Proof.Machine.execSetGain g s
  | .setClk k => Sys2Proof.Machine.execSetClk k s
  | .teardown => Sys2Proof.Machine.execTeardown s

end Sys2Proof.Machine
end

