-- ==== Sys2Proof/Machine/Step.lean ====
section
/-! DEFINITION. One step of the block: what the outside does next, done whole (00_scope.md R14, 20_memory.md R52, R63). -/

namespace Sys2Proof.Machine

/-- The next input is taken off the list and acted on; with none the block waits. -/
def step (s : State) : Host.Outcome State Fault Refusal :=
  match s.inputs with
  | [] => s.idle
  | .command w :: rest => runDecoded exec (decode w) { s with inputs := rest }
  | .reset pins :: rest => State.assertReset { s with inputs := rest } pins
  | .capabilities answer :: rest => State.setCapabilities { s with inputs := rest } answer

/-- The host presents the command whose table bits are `w` next, before anything else it means to do: this stands for
the load of a program, since the block fetches nothing (R27, R65). Log entries 5, 17. -/
def State.withFetchWord (s : State) (nbits w : Nat) : State :=
  { s with inputs := .command (BitVec.ofNat 48 (w % 2 ^ nbits)) :: s.inputs }

end Sys2Proof.Machine
end

