-- ==== Sys2Proof/Machine/Observe.lean ====
section
/-! DEFINITION. What the outside sees of the trace: the bus protocol (20_memory.md R55 to R64), the lines (10_state.md
R35), the bits on the wire (R60, 42_update.md R134), the encoded event stream (30_encoding.md R88), the informative chip
view (R37), and the one duration (70_reset_and_hazards.md R225). The block never reads any of it (R34). -/

namespace Sys2Proof.Machine

/-- The order of the bits of a transfer (R6 `SPI_BITORDER`). -/
inductive BitOrder where
  | msbFirst
  | lsbFirst
  deriving DecidableEq, Repr

/-- The configuration a transaction is opened with (R56). -/
structure BusConfig where
  clock : ClockWord
  bitOrder : BitOrder
  mode : Nat
  deriving DecidableEq, Repr

/-- `config` of `TxnBegin(k)` (R13): the clock word varies, MSB-first and mode 0 are fixed (R60). -/
def busConfig (k : ClockWord) : BusConfig := { clock := k, bitOrder := .msbFirst, mode := 0 }

/-- Where the block stands with the bus. -/
inductive BusPhase where
  /-- Not acquired. -/
  | free
  /-- Acquired, no transaction open. -/
  | held
  /-- In a transaction: whether the chip is selected, and the bytes sent. -/
  | inTxn (selected : Bool) (sent : Nat)
  /-- Released, for good. -/
  | closed
  deriving DecidableEq, Repr

/-- The events allowed while the bus is held and no transaction is open: the release, a new transaction, and the lines,
chip-select never LOW (R64: the chip-select edges are inside the bracket). -/
def heldNext (cs : PinId) : Event → Option BusPhase
  | .busEnd => some .closed
  | .txnBegin _ => some (.inTxn false 0)
  | .pinMode _ => some .held
  | .pinLevel p l => if p = cs ∧ l = .low then none else some .held
  | .delay _ => some .held
  | _ => none

/-- The events allowed inside a transaction: chip-select low, exactly three transfers, chip-select high, the end (R62,
R64), and "no other bus activity" (R55). -/
def txnNext (cs : PinId) (selected : Bool) (sent : Nat) : Event → Option BusPhase
  | .pinLevel p .low => if p = cs ∧ selected = false ∧ sent = 0 then some (.inTxn true 0) else none
  | .transfer _ => if selected = true ∧ sent < 3 then some (.inTxn true (sent + 1)) else none
  | .pinLevel p .high => if p = cs ∧ selected = true ∧ sent = 3 then some (.inTxn false 3) else none
  | .txnEnd => if selected = false ∧ sent = 3 then some .held else none
  | _ => none

/-- The bus protocol (R56): one acquisition before anything else, one release after everything else. -/
def BusPhase.next (cs : PinId) (ph : BusPhase) (e : Event) : Option BusPhase :=
  match ph with
  | .free => if e = .busBegin then some .held else none
  | .held => heldNext cs e
  | .inTxn selected sent => txnNext cs selected sent e
  | .closed => none

/-- One event of the scan of the bus; a broken scan stays broken. -/
def busScan (cs : PinId) : Option BusPhase → Event → Option BusPhase
  | none, _ => none
  | some ph, e => ph.next cs e

/-- The phase a trace ends in; none if it broke the protocol. -/
def busPhase (cs : PinId) (trace : List Event) : Option BusPhase := trace.foldl (busScan cs) (some .free)

/-- One line as the platform sees it. -/
inductive LineState where
  /-- Never set up: "not driven by the block" (R35). -/
  | unconfigured
  /-- An output that has no level yet. -/
  | output
  /-- An output at a level. -/
  | driven (l : Level)
  deriving DecidableEq, Repr

/-- A line is made an output before it is driven (R111 b); none if it is driven unconfigured. -/
def LineState.next (p : PinId) (st : LineState) : Event → Option LineState
  | .pinMode q => if q = p then some (if st = .unconfigured then .output else st) else some st
  | .pinLevel q l =>
    if q = p then (if st = .unconfigured then none else some (.driven l)) else some st
  | _ => some st

/-- One event of the scan of a line; a broken scan stays broken. -/
def lineScan (p : PinId) : Option LineState → Event → Option LineState
  | none, _ => none
  | some st, e => st.next p e

/-- The state of line `p` after a trace; none if it was driven before it was an output. -/
def lineState (p : PinId) (trace : List Event) : Option LineState :=
  trace.foldl (lineScan p) (some .unconfigured)

/-- One event of the scan for the last level of a line. -/
def levelScan (p : PinId) (last : Option Level) : Event → Option Level
  | .pinLevel q l => if q = p then some l else last
  | _ => last

/-- "the level of line `p` is the level of the last `PinLevel(p, l)` in the trace, and is undefined ... if there is
none" (R35). -/
def lineLevel (p : PinId) (trace : List Event) : Option Level :=
  trace.foldl (levelScan p) none

/-- The event touches no line but the configured ones (R57). -/
def ownedEvent (pins : PinConfig) : Event → Bool
  | .pinMode p => p == pins.csPin || (pins.clrPresent && p == pins.clrPin)
  | .pinLevel p _ => p == pins.csPin || (pins.clrPresent && p == pins.clrPin)
  | _ => true

/-- The bits of a word, most significant first. -/
def bitsMsb {n : Nat} (w : BitVec n) : List Bool := (List.range n).map fun i => w.getMsbD i

/-- The bits one event puts on the data-out line, in the order they leave (R60). -/
def Event.wireBits : Event → List Bool
  | .transfer b => bitsMsb b
  | _ => []

/-- The bits a list of events puts on the data-out line (R134). -/
def wireBits (es : List Event) : List Bool := es.flatMap Event.wireBits

/-- `evt_arg` of a pin event (R88): the identifier in bits 7:0, one flag in bit 8. -/
def pinArg (p : PinId) (flag : Bool) : BitVec 32 := (BitVec.ofBool flag ++ p).setWidth 32

/-- The capability stream's encoding `(evt_kind, evt_arg)` (R88); a delay is not sent (R53). -/
def Event.encoded : Event → Option (BitVec 4 × BitVec 32)
  | .busBegin => some (1, 0)
  | .busEnd => some (2, 0)
  | .txnBegin k => some (3, k)
  | .transfer b => some (4, b.setWidth 32)
  | .txnEnd => some (5, 0)
  | .pinMode p => some (6, pinArg p true)
  | .pinLevel p l => some (7, pinArg p (l == .high))
  | .delay _ => none

/-- The event channel of a trace (R53, R88). -/
def eventStream (trace : List Event) : List (BitVec 4 × BitVec 32) := trace.filterMap Event.encoded

/-- The least time an event takes (R13, R225): `n × TIME_UNIT` for the wait, nothing stated for any other (R226). -/
def Event.minTime : Event → Nat
  | .delay n => n * Config.timeUnit
  | _ => 0

/-- The scan of R37: the bytes since chip-select fell, if only transfers followed, and the codes last taken. -/
structure ChipView where
  shifted : Option (List Byte)
  codes : Option (Code × Code)
  deriving DecidableEq, Repr

/-- The codes after a complete group of three bytes, else the codes as they were (R37). -/
def ChipView.latch (v : ChipView) : Option (Code × Code) :=
  match v.shifted with
  | some [b1, b2, b3] => some (unpack b1 b2 b3)
  | _ => v.codes

/-- One event of the scan (R37). -/
def ChipView.next (pins : PinConfig) (v : ChipView) (e : Event) : ChipView :=
  match e with
  | .pinLevel p l =>
    if p = pins.csPin then
      match l with
      | .low => { v with shifted := some [] }
      | .high => { shifted := none, codes := v.latch }
    else if pins.clrPresent ∧ p = pins.clrPin ∧ l = .low then { shifted := none, codes := some (0, 0) }
    else { v with shifted := none }
  | .transfer b => { v with shifted := v.shifted.map (· ++ [b]) }
  | _ => { v with shifted := none }

/-- The scan of R37 over a trace; "start at unknown". -/
def chipScan (pins : PinConfig) (trace : List Event) : ChipView :=
  trace.foldl (ChipView.next pins) { shifted := none, codes := none }

/-- The chip view of a trace (R37), informative: the codes the chip holds, none while unknown. -/
def chipView (pins : PinConfig) (trace : List Event) : Option (Code × Code) := (chipScan pins trace).codes

end Sys2Proof.Machine
end

