-- ==== Sys2Proof/Safety.lean ====
section
/-! DEFINITION. What claims are stated in: the invariants of 10_state.md R32 and R35, and when a command is accepted. -/

namespace Sys2Proof.Machine

/-- The phase of the bus that the lifecycle flags stand for (R25, R110). -/
def State.expectedPhase (s : State) : BusPhase :=
  if s.initialized then (if s.destroyed then .closed else .held) else .free

/-- The invariants of R32, with the level of the lines (R35) and the silence before INIT (R115). -/
structure BlockInv (s : State) : Prop where
  /-- R7: the configuration is one. -/
  pins_valid : s.pins.valid = true
  /-- R32 b. -/
  vref_range : s.vref.toNat ≤ 2700000
  /-- R32 c. -/
  gain_legal : s.gain = 1 ∨ s.gain = 2
  /-- R115: nothing has been emitted while uninitialized. -/
  silent : s.initialized = false → s.trace = []
  /-- R32 e, R55, R64: the trace keeps the bus protocol, and the bus is where the flags say (R25). -/
  bus : busPhase s.pins.csPin s.trace = some s.expectedPhase
  /-- R57: only the configured lines are touched. -/
  owned : ∀ e ∈ s.trace, ownedEvent s.pins e = true
  /-- R35, R111 b: chip-select is set up before it is driven, and HIGH between commands. -/
  cs_high : s.initialized = true → lineState s.pins.csPin s.trace = some (.driven .high)
  /-- R35, R111 b: so is the clear line, where there is one. -/
  clr_high : s.initialized = true → s.pins.clrPresent = true →
    lineState s.pins.clrPin s.trace = some (.driven .high)

/-- A command presented to this state is accepted and completes: the configuration is one (R7), the block is not
destroyed (R52, R114), the capabilities complete events (R186). -/
structure Ready (s : State) : Prop where
  pins_valid : s.pins.valid = true
  alive : s.destroyed = false
  capabilities : s.capabilitiesAnswer = true

/-- A command presented to this state is accepted; what it needs of the environment is not said. -/
structure Accepts (s : State) : Prop where
  pins_valid : s.pins.valid = true
  alive : s.destroyed = false

end Sys2Proof.Machine
end

