-- ==== Sys2Proof/Certificates/Slice0/Obligations.lean ====
section
/-! DEFINITION. The statements for the provers, rule by rule of spec/. A state written `{ s with ... }` says the frame:
every field it does not name is unchanged. `Accepts s` and `Ready s` (Safety.lean) are hypotheses on the state alone.
D<n> is a decision of 92_eei_decisions.md: the spec's own choice where its source is silent. -/

open Sys2Proof Sys2Proof.Machine

/-! ## Encoding (30_encoding.md) -/

/-- R91: the worked encodings (D7), read by the decoder, and written by the encoder where they are commands. -/
def Obligations.WorkedEncodingsDecode : Prop :=
  (∀ p ∈ ([(0x1002001F4000, .init 2048000 2), (0x1001002932E0, .init 2700000 1), (0x10FFFFFFFFFF, .init (-1) (-1)),
      (0x240000000FFF, .set .a 4095), (0x280000000000, .set .b 0), (0x2C0000001388, .set .both 5000),
      (0x2400FFFFFFFF, .set .a (-1)), (0x340000000000, .get .a), (0x380000000000, .get .b),
      (0x400000000000, .update), (0x500000000000, .clear), (0x600000000800, .toVolt 2048),
      (0x7000001F4000, .toCode 2048000), (0x7000FFFFFA24, .toCode (-1500)), (0x8C00000F4240, .setV .both 1000000),
      (0x9000002DC6C0, .setVref 3000000), (0xA00300000000, .setGain 3), (0xA08000000000, .setGain (-128)),
      (0xB000DEADBEEF, .setClk 0xDEADBEEF), (0xC00000000000, .teardown)] : List (CommandWord × Instr)),
    decode p.1 = .instr p.2 ∧ encode p.2 = p.1) ∧
  (∃ why, decode 0x3C0000000000 = .reserved why) ∧ (∃ why, decode 0xD00000000000 = .reserved why)

/-- R80 to R84 (D7): no bit of an operand is dropped on the way through the command word. -/
def Obligations.DecodeInvertsEncode : Prop :=
  ∀ i : Instr, i.wellFormed = true → decode (encode i) = .instr i

/-- R82, R84 (D7): a decoded command is well formed, and its word is the assembler's but for the fields its format does not
use. -/
def Obligations.EncodeInvertsDecodeOnUsedFields : Prop :=
  ∀ (w : CommandWord) (i : Instr), decode w = .instr i →
    i.wellFormed = true ∧ encode i = w &&& usedBits (opField w)

/-- R86 (D10): two words that agree on `op` and on the fields R81 gives its format decode alike, and the assembler writes 0
in every other field, `z` among them. The formats of R81 are `usedBits`. -/
def Obligations.UnusedFieldsAreIgnored : Prop :=
  (∀ w w' : CommandWord, w &&& usedBits (opField w) = w' &&& usedBits (opField w) → decode w' = decode w) ∧
  (∀ op : BitVec 4, usedBits op &&& 0x030000000000 = 0) ∧
  (∀ i : Instr, encode i &&& ~~~usedBits i.opcode = 0) ∧
  decode 0x43FF12345678 = decode 0x400000000000

/-- R85 (D9, log entry 9): exactly the reserved words, and each of them, accepted, is a no-op that answers 0 and emits nothing. -/
def Obligations.ReservedWordsAreNoOps : Prop :=
  ∀ w : CommandWord,
    let op := w.toNat / 2 ^ 44
    let sel := w.toNat / 2 ^ 42 % 4
    ((∃ why, decode w = .reserved why) ↔
      op = 0x0 ∨ op = 0xD ∨ op = 0xE ∨ op = 0xF ∨ ((op = 0x2 ∨ op = 0x8) ∧ sel = 0) ∨
        (op = 0x3 ∧ (sel = 0 ∨ sel = 3))) ∧
    ∀ (s : State) (rest : List Input) (why : Reserved), Accepts s → decode w = .reserved why →
      s.inputs = .command w :: rest →
      step s = .next { s with inputs := rest, responses := s.responses ++ [0] }

/-- R14, R52 (D1): a step runs the decoded command; the per-command statements reach a run through this one. That the
commands stand in a list of inputs is the model's choice (log entries 5, 17). -/
def Obligations.StepRunsDecodedCommand : Prop :=
  (∀ (s : State) (w : CommandWord) (rest : List Input) (i : Instr),
    s.inputs = .command w :: rest → decode w = .instr i → step s = exec i { s with inputs := rest }) ∧
  (∀ (s : State) (w : Nat) (i : Instr), decodeTableWord 48 w = some i → step (s.withFetchWord 48 w) = exec i s)

/-- R88 (D22): the capability stream's encoding, kind by kind; a delay is not sent; two events that are sent and differ are
sent differently. -/
def Obligations.EventStreamEncoding : Prop :=
  (∀ (k : ClockWord) (b : Byte) (p : PinId),
    Event.busBegin.encoded = some (1, 0) ∧ Event.busEnd.encoded = some (2, 0) ∧
    (Event.txnBegin k).encoded = some (3, k) ∧
    (∃ a, (Event.transfer b).encoded = some (4, a) ∧ a.toNat = b.toNat) ∧
    Event.txnEnd.encoded = some (5, 0) ∧
    (∃ a, (Event.pinMode p).encoded = some (6, a) ∧ a.toNat = p.toNat + 256) ∧
    (∃ a, (Event.pinLevel p .low).encoded = some (7, a) ∧ a.toNat = p.toNat) ∧
    (∃ a, (Event.pinLevel p .high).encoded = some (7, a) ∧ a.toNat = p.toNat + 256)) ∧
  (∀ n, (Event.delay n).encoded = none) ∧
  (∀ (e : Event) (k : BitVec 4) (a : BitVec 32), e.encoded = some (k, a) → 1 ≤ k.toNat ∧ k.toNat ≤ 7) ∧
  (∀ (e f : Event) (x : BitVec 4 × BitVec 32), e.encoded = some x → f.encoded = some x → e = f)

/-! ## Lifecycle (40_lifecycle.md) -/

/-- R111: INIT, first or repeated, with or without a clear line. That `initialized` is set before the clear, and each
line's mode before its level, are D12 and D14. -/
def Obligations.InitAcquiresSetsUpAndClears : Prop :=
  ∀ (s : State) (V g : Int), Ready s →
    ∃ (v : Microvolts) (n : Gain),
      exec (.init V g) s = .next { s with
        initialized := true
        vref := v
        gain := n
        chA := 0
        chB := 0
        trace := s.trace ++ (if s.initialized then [] else [.busBegin]) ++
          [.pinMode s.pins.csPin, .pinLevel s.pins.csPin .high] ++
          (if s.pins.clrPresent then
            [.pinMode s.pins.clrPin, .pinLevel s.pins.clrPin .high,
             .pinLevel s.pins.clrPin .low, .delay 10, .pinLevel s.pins.clrPin .high]
          else
            [.txnBegin s.clk, .pinLevel s.pins.csPin .low, .transfer 0x00, .transfer 0x00, .transfer 0x00,
             .pinLevel s.pins.csPin .high, .txnEnd])
        responses := s.responses ++ [0] } ∧
      (v.toNat : Int) = max 0 (min V 2700000) ∧ (n.toNat : Int) = max 1 (min g 2)

/-- R112 (D13): a second INIT is destructive: it zeroes both registers and sets everything up again, but does not
acquire again, so that the trace still holds exactly one `BusBegin`. -/
def Obligations.SecondInitDoesNotReacquire : Prop :=
  ∀ (s : State) (V g : Int), Ready s → BlockInv s → s.initialized = true →
    ∃ (t : State) (es : List Event), exec (.init V g) s = .next t ∧ t.trace = s.trace ++ es ∧
      .busBegin ∉ es ∧ t.trace.count .busBegin = 1 ∧
      .pinMode s.pins.csPin ∈ es ∧ (s.pins.clrPresent = true → .pinMode s.pins.clrPin ∈ es) ∧
      t.chA = 0 ∧ t.chB = 0 ∧ (t.vref.toNat : Int) = max 0 (min V 2700000) ∧
      (t.gain.toNat : Int) = max 1 (min g 2) ∧ t.clk = s.clk

/-- R173: INIT stores what SETVREF and SETGAIN store, and has no clock operand. -/
def Obligations.InitStoresAsTheSetters : Prop :=
  ∀ (s : State) (V g : Int), Ready s →
    ∃ t u v, exec (.init V g) s = .next t ∧ exec (.setVref V) s = .next u ∧ exec (.setGain g) s = .next v ∧
      t.vref = u.vref ∧ t.gain = v.gain ∧ t.clk = s.clk

/-- R113 (D19): TEARDOWN releases the bus if and only if it was acquired, and no second one is accepted. -/
def Obligations.TeardownReleasesBusOnce : Prop :=
  ∀ s : State, Accepts s → (s.initialized = true → s.capabilitiesAnswer = true) →
    ∃ t, exec .teardown s = .next t ∧
      t = { s with
        destroyed := true
        trace := s.trace ++ (if s.initialized then [.busEnd] else [])
        responses := s.responses ++ [0] } ∧
      exec .teardown t = .refused .destroyed

/-- R114 (D19, log entry 10): a destroyed block accepts no command, reserved words among them; reset restarts it. -/
def Obligations.DestroyedBlockAcceptsNothing : Prop :=
  ∀ s : State, s.pins.valid = true → s.destroyed = true →
    s.cmdReady = false ∧
    (∀ i : Instr, exec i s = .refused .destroyed) ∧
    (∀ (w : CommandWord) (rest : List Input),
      step { s with inputs := .command w :: rest } = .refused .destroyed) ∧
    (∀ (p : PinConfig) (rest : List Input), p.valid = true →
      ∃ t, step { s with inputs := .reset p :: rest } = .next t ∧ t.destroyed = false ∧ t.initialized = false)

/-- R115: before INIT no command emits an event but INIT. -/
def Obligations.OnlyInitEmitsBeforeInit : Prop :=
  ∀ (i : Instr) (s t : State), s.initialized = false → exec i s = .next t →
    t.trace = s.trace ∨ ∃ V g, i = .init V g

/-- R110: INIT alone sets `initialized`, TEARDOWN alone sets `destroyed`, and no command clears either. -/
def Obligations.FlagsChangeOnlyByInitAndTeardown : Prop :=
  ∀ (i : Instr) (s t : State), exec i s = .next t →
    (t.initialized = true ↔ s.initialized = true ∨ ∃ V g, i = .init V g) ∧
    (t.destroyed = true ↔ i = .teardown)

/-! ## Channel registers (41_channel_access.md) -/

/-- R120: SET clamps the whole signed operand and stores it in each selected channel, in either lifecycle state. -/
def Obligations.SetStoresClampedCode : Prop :=
  ∀ (s : State) (sel : Selector) (code : Int), Accepts s →
    ∃ a b : Code,
      exec (.set sel code) s = .next { s with chA := a, chB := b, responses := s.responses ++ [0] } ∧
      (sel = .a ∨ sel = .both → (a.toNat : Int) = max 0 (min code 4095)) ∧ (sel = .b → a = s.chA) ∧
      (sel = .b ∨ sel = .both → (b.toNat : Int) = max 0 (min code 4095)) ∧ (sel = .a → b = s.chB)

/-- R121: GET answers the register and changes nothing. -/
def Obligations.GetAnswersRegister : Prop :=
  ∀ (s : State) (ch : Channel), Accepts s →
    ∃ r : Response,
      exec (.get ch) s = .next { s with responses := s.responses ++ [r] } ∧
      (ch = .a → r.toNat = s.chA.toNat) ∧ (ch = .b → r.toNat = s.chB.toNat)

/-- R122: the clamp law, as the source states it for testing, SET then GET, for every operand (D5). -/
def Obligations.SetThenGetClamps : Prop :=
  ∀ (s : State) (sel : Selector) (ch : Channel) (c : Int), Accepts s → sel.covers ch = true →
    ∃ (t u : State) (r : Response),
      exec (.set sel c) s = .next t ∧ exec (.get ch) t = .next u ∧ u.responses = t.responses ++ [r] ∧
      r.toInt = (if c < 0 then 0 else min c 4095)

/-- R120, R123: an operand past the top of the range does what 4095 does; no truncation before the clamp. -/
def Obligations.SetClampsBeforeWrite : Prop :=
  ∀ (s : State) (sel : Selector) (x : Int), 0 ≤ x →
    exec (.set sel (4096 + x)) s = exec (.set sel 4095) s

/-! ## The frame and UPDATE (42_update.md) -/

/-- R130: the packing law, in integers. That the bytes are those of the one 24-bit word `a × 4096 + b` is an inference
the spec marks as its own ("[derived: from the packing law]", R130); the byte order, most significant first, is R59's. -/
def Obligations.PackingLaw : Prop :=
  ∀ a b : Code,
    let f := a.toNat * 4096 + b.toNat
    ((pack a b).1.toNat = a.toNat >>> 4 ∧
     (pack a b).2.1.toNat = ((a.toNat &&& 0xF) <<< 4) ||| (b.toNat >>> 8) ∧
     (pack a b).2.2.toNat = b.toNat &&& 0xFF) ∧
    ((pack a b).1.toNat = f / 65536 ∧ (pack a b).2.1.toNat = f / 256 % 256 ∧ (pack a b).2.2.toNat = f % 256)

/-- R131: unpacking, in integers, and the bijection between pairs of codes and frames. -/
def Obligations.PackUnpackBijection : Prop :=
  (∀ b1 b2 b3 : Byte,
    (unpack b1 b2 b3).1.toNat = (b1.toNat <<< 4) ||| (b2.toNat >>> 4) ∧
    (unpack b1 b2 b3).2.toNat = ((b2.toNat &&& 0xF) <<< 8) ||| b3.toNat) ∧
  (∀ a b : Code, unpack (pack a b).1 (pack a b).2.1 (pack a b).2.2 = (a, b)) ∧
  (∀ b1 b2 b3 : Byte, pack (unpack b1 b2 b3).1 (unpack b1 b2 b3).2 = (b1, b2, b3))

/-- R132, R133: UPDATE emits the seven events, or none before INIT, and changes no state of the block. -/
def Obligations.UpdateSendsOneFrame : Prop :=
  ∀ s : State, Accepts s → (s.initialized = true → s.capabilitiesAnswer = true) →
    ∃ b1 b2 b3 : Byte,
      exec .update s = .next { s with
        trace := s.trace ++ (if s.initialized then
          [.txnBegin s.clk, .pinLevel s.pins.csPin .low, .transfer b1, .transfer b2, .transfer b3,
           .pinLevel s.pins.csPin .high, .txnEnd] else [])
        responses := s.responses ++ [0] } ∧
      b1.toNat = s.chA.toNat / 16 ∧ b2.toNat = s.chA.toNat % 16 * 16 + s.chB.toNat / 256 ∧
      b3.toNat = s.chB.toNat % 256

/-- R134: the 24 bits of one UPDATE, channel A first, each code from bit 11 down to bit 0. -/
def Obligations.UpdateShiftsCodesMsbFirst : Prop :=
  ∀ s : State, Ready s → s.initialized = true →
    ∃ (t : State) (es : List Event),
      exec .update s = .next t ∧ t.trace = s.trace ++ es ∧
      wireBits es = (List.range 12).map (fun i => s.chA.getLsbD (11 - i)) ++
        (List.range 12).map (fun i => s.chB.getLsbD (11 - i))

/-! ## CLEAR (43_clear.md) -/

/-- R143: before INIT, CLEAR zeroes the registers and nothing else happens, with or without a clear line. -/
def Obligations.ClearBeforeInitOnlyZeroes : Prop :=
  ∀ s : State, Accepts s → s.initialized = false →
    exec .clear s = .next { s with chA := 0, chB := 0, responses := s.responses ++ [0] }

/-- R140, R141: with a clear line, the registers zeroed, the pulse and no bus event. That the line is HIGH before the pulse
is an inference the spec marks as its own ("[derived: from 40_lifecycle.md rule R111 and 10_state.md rule R35]", R141). -/
def Obligations.ClearPulsesClearLine : Prop :=
  ∀ s : State, Ready s → s.initialized = true → s.pins.clrPresent = true →
    exec .clear s = .next { s with
      chA := 0
      chB := 0
      trace := s.trace ++ [.pinLevel s.pins.clrPin .low, .delay 10, .pinLevel s.pins.clrPin .high]
      responses := s.responses ++ [0] } ∧
    (BlockInv s → lineLevel s.pins.clrPin s.trace = some .high)

/-- R140, R142: without a clear line, one all-zero frame whatever the registers held. -/
def Obligations.ClearSendsZeroFrame : Prop :=
  ∀ s : State, Ready s → s.initialized = true → s.pins.clrPresent = false →
    exec .clear s = .next { s with
      chA := 0
      chB := 0
      trace := s.trace ++ [.txnBegin s.clk, .pinLevel s.pins.csPin .low, .transfer 0x00, .transfer 0x00,
        .transfer 0x00, .pinLevel s.pins.csPin .high, .txnEnd]
      responses := s.responses ++ [0] }

/-! ## Conversions (44_conversion.md) -/

/-- R151 (the numerator over 4096 by D17): TOVOLT answers the integer `code × vref × gain`, whatever the code, and changes nothing. -/
def Obligations.ToVoltAnswersProduct : Prop :=
  ∀ (s : State) (code : Int), Accepts s → (Instr.toVolt code).wellFormed = true →
    ∃ r : Response,
      exec (.toVolt code) s = .next { s with responses := s.responses ++ [r] } ∧
      r.toInt = code * s.vref.toNat * s.gain.toNat

/-- R152 (exact by D4): TOCODE answers `trunc(V × 4096 / D + 1/2)`, in rationals and in integers, unclamped. -/
def Obligations.ToCodeRoundsHalfUp : Prop :=
  ∀ (s : State) (V : Int), Accepts s → (Instr.toCode V).wellFormed = true →
    let D : Int := s.vref.toNat * s.gain.toNat
    let q : ℚ := (V : ℚ) * 4096 / D + 1 / 2
    D ≠ 0 →
    ∃ r : Response,
      exec (.toCode V) s = .next { s with responses := s.responses ++ [r] } ∧
      r.toInt = Int.tdiv (8192 * V + D) (2 * D) ∧
      r.toInt = (if 0 ≤ q then ⌊q⌋ else ⌈q⌉)

/-- R153: the rounding, row by row of the table; `q = V × 4096 / D` is compared by multiplying out. -/
def Obligations.ToCodeRoundingTable : Prop :=
  ∀ (s : State) (V : Int), Accepts s → (Instr.toCode V).wellFormed = true →
    let D : Int := s.vref.toNat * s.gain.toNat
    D ≠ 0 →
    ∃ (t : State) (r : Response),
      exec (.toCode V) s = .next t ∧ t.responses = s.responses ++ [r] ∧
      (∀ k : Int, 0 ≤ k → 2 * k * D ≤ 8192 * V → 8192 * V < (2 * k + 1) * D → r.toInt = k) ∧
      (∀ k : Int, 0 ≤ k → (2 * k + 1) * D ≤ 8192 * V → 8192 * V < (2 * k + 2) * D → r.toInt = k + 1) ∧
      (-D ≤ 8192 * V → V < 0 → r.toInt = 0) ∧
      (-3 * D < 8192 * V → 8192 * V < -D → r.toInt = 0) ∧
      (∀ k : Int, 1 ≤ k → -(2 * k + 3) * D < 8192 * V → 8192 * V ≤ -(2 * k + 1) * D → r.toInt = -k)

/-- R154 (D16, log entries 6, 7): with `D = 0` TOCODE and SETV complete, the value is free, and nothing else changes but the model's own draw
counter; with a legal gain `D = 0` exactly when `vref = 0`. -/
def Obligations.ZeroReferenceCompletes : Prop :=
  ∀ (s : State) (V : Int) (sel : Selector), Accepts s →
    ((s.gain = 1 ∨ s.gain = 2) → (s.vref.toNat * s.gain.toNat = 0 ↔ s.vref = 0)) ∧
    (s.vref.toNat * s.gain.toNat = 0 →
      (∃ (r : Response) (n : Nat),
        exec (.toCode V) s = .next { s with responses := s.responses ++ [r], draws := n }) ∧
      (∃ (u : Code) (n : Nat),
        exec (.setV sel V) s = .next { s with
          chA := if sel = .b then s.chA else u
          chB := if sel = .a then s.chB else u
          responses := s.responses ++ [0]
          draws := n }))

/-- R155 (D18, D28): SETV stores the clamp of the full-width conversion in each selected channel, the one value in
both, answers 0 and emits nothing; with `D = 0` that value is some code (R154). -/
def Obligations.SetVStoresConvertedVoltage : Prop :=
  ∀ (s : State) (sel : Selector) (V : Int), Accepts s →
    let D : Int := s.vref.toNat * s.gain.toNat
    ∃ (u : Code) (n : Nat),
      exec (.setV sel V) s = .next { s with
        chA := if sel = .b then s.chA else u
        chB := if sel = .a then s.chB else u
        responses := s.responses ++ [0]
        draws := n } ∧
      (D ≠ 0 → n = s.draws ∧ (u.toNat : Int) = max 0 (min (Int.tdiv (8192 * V + D) (2 * D)) 4095))

/-- R156: TOVOLT then TOCODE gives the code back, where `N / 4096` is whole, and from its floor where the LSB voltage
is at least 2 µV. -/
def Obligations.ConversionRoundTrip : Prop :=
  ∀ (s : State) (c V : Int), Accepts s → 0 ≤ c →
    let D : Int := s.vref.toNat * s.gain.toNat
    (Instr.toVolt c).wellFormed = true → (Instr.toCode V).wellFormed = true → 0 < D →
    ∃ (N r : Response) (t u : State),
      exec (.toVolt c) s = .next t ∧ t.responses = s.responses ++ [N] ∧
      exec (.toCode V) t = .next u ∧ u.responses = t.responses ++ [r] ∧
      (N.toInt = 4096 * V → r.toInt = c) ∧
      (8192 ≤ D → V = N.toInt / 4096 → r.toInt = c)

/-- R157: TOCODE is non-decreasing and answers 0 at 0, TOVOLT is strictly increasing, SETV stores 0 up to half a
step. -/
def Obligations.ConversionMonotone : Prop :=
  ∀ s : State, Accepts s →
    let D : Int := s.vref.toNat * s.gain.toNat
    0 < D →
    (∀ V V' : Int, (Instr.toCode V).wellFormed = true → (Instr.toCode V').wellFormed = true → V ≤ V' →
      ∃ (r r' : Response) (t t' : State),
        exec (.toCode V) s = .next t ∧ t.responses = s.responses ++ [r] ∧
        exec (.toCode V') s = .next t' ∧ t'.responses = s.responses ++ [r'] ∧
        r.toInt ≤ r'.toInt ∧ (V = 0 → r.toInt = 0)) ∧
    (∀ c c' : Int, (Instr.toVolt c).wellFormed = true → (Instr.toVolt c').wellFormed = true → c < c' →
      ∃ (r r' : Response) (t t' : State),
        exec (.toVolt c) s = .next t ∧ t.responses = s.responses ++ [r] ∧
        exec (.toVolt c') s = .next t' ∧ t'.responses = s.responses ++ [r'] ∧ r.toInt < r'.toInt) ∧
    (∀ (V : Int) (sel : Selector), V ≤ 0 ∨ 8192 * V < D →
      ∃ t, exec (.setV sel V) s = .next t ∧
        (sel = .a ∨ sel = .both → t.chA = 0) ∧ (sel = .b ∨ sel = .both → t.chB = 0))

/-- R158: no conversion wraps: the bounds of both answers, for legal parameters, and the three extreme cases. -/
def Obligations.ConversionsFitTheResponse : Prop :=
  ∀ (s : State) (x : Int), Accepts s → fitsImm x = true → s.vref.toNat ≤ 2700000 → (s.gain = 1 ∨ s.gain = 2) →
    ∃ (N c : Response) (t u : State),
      exec (.toVolt x) s = .next t ∧ t.responses = s.responses ++ [N] ∧
      exec (.toCode x) s = .next u ∧ u.responses = s.responses ++ [c] ∧
      |N.toInt| ≤ 11596411699200000 ∧ N.toInt = x * s.vref.toNat * s.gain.toNat ∧
      (s.vref ≠ 0 → |c.toInt| ≤ 2 ^ 43) ∧
      (x = -2147483648 → s.vref.toNat = 2700000 → s.gain = 2 → N.toInt = -11596411699200000) ∧
      (x = 2147483647 → s.vref = 1 → s.gain = 1 → c.toInt = 8796093018112) ∧
      (x = -2147483648 → s.vref = 1 → s.gain = 1 → c.toInt = -8796093022207)

/-! ## Parameter setters (45_parameters.md) -/

/-- R170: SETVREF stores the clamp to 0 .. 2.7 V, exactly. -/
def Obligations.SetVrefStoresClamped : Prop :=
  ∀ (s : State) (V : Int), Accepts s →
    ∃ v : Microvolts,
      exec (.setVref V) s = .next { s with vref := v, responses := s.responses ++ [0] } ∧
      (V < 0 → v.toNat = 0) ∧ (2700000 < V → v.toNat = 2700000) ∧
      (0 ≤ V → V ≤ 2700000 → (v.toNat : Int) = V)

/-- R171: SETGAIN stores the clamp to 1 .. 2. -/
def Obligations.SetGainStoresClamped : Prop :=
  ∀ (s : State) (g : Int), Accepts s →
    ∃ n : Gain,
      exec (.setGain g) s = .next { s with gain := n, responses := s.responses ++ [0] } ∧
      (g ≤ 1 → n.toNat = 1) ∧ (2 ≤ g → n.toNat = 2)

/-- R172, R24, R31: SETCLK stores the word as given. However many inputs later, none of them a reset or another SETCLK (the
only writers of `clk`, R24 and R31), the block still holds it, every transaction opened since carries it, and so does the transaction of the next UPDATE, electrical
clear or INIT that reaches the bus. Only the word varies: mode 0 and the bit order do not. That the inputs stand in a list
and that a run goes on past a reserved word are the model's choices (log entries 5, 9). -/
def Obligations.SetClkStoresWordForLaterFrames : Prop :=
  (∀ (s : State) (k : ClockWord), Accepts s →
    ∃ t, exec (.setClk k) s = .next t ∧ t = { s with clk := k, responses := s.responses ++ [0] } ∧
      ∀ (n : Nat) (u : State),
        (∀ p, .reset p ∉ s.inputs.take n) →
        (∀ w j, .command w ∈ s.inputs.take n → decode w ≠ .instr (.setClk j)) →
        Host.Core.run Sys2Proof.core n t = .next u →
          u.clk = k ∧
          (∃ es, u.trace = s.trace ++ es ∧ ∀ k', .txnBegin k' ∈ es → k' = k) ∧
          (∀ (i : Instr) (v : State) (es : List Event) (k' : ClockWord), exec i u = .next v →
            v.trace = u.trace ++ es → .txnBegin k' ∈ es → k' = k) ∧
          (Ready u →
            (u.initialized = true →
              ∃ v es, exec .update u = .next v ∧ v.trace = u.trace ++ .txnBegin k :: es) ∧
            (u.initialized = true → u.pins.clrPresent = false →
              ∃ v es, exec .clear u = .next v ∧ v.trace = u.trace ++ .txnBegin k :: es) ∧
            (u.pins.clrPresent = false → ∀ V g,
              ∃ v es, exec (.init V g) u = .next v ∧ v.trace = u.trace ++ es ∧ .txnBegin k ∈ es))) ∧
  (∀ k : ClockWord, busConfig k = { clock := k, bitOrder := .msbFirst, mode := 0 })

/-! ## Reset (10_state.md R31, 70_reset_and_hazards.md) -/

/-- R31, R211, R212 (D11; log entries 2, 3, 4): what reset leaves, for every configuration and every `CLK_RESET`. -/
def Obligations.ResetLeavesSpecValues : Prop :=
  (∀ (p : PinConfig) (k : ClockWord),
    let s := State.resetWith p k
    s.chA.toNat = 0 ∧ s.chB.toNat = 0 ∧ s.vref.toNat = 2048000 ∧ s.gain.toNat = 2 ∧ s.clk = k ∧
      s.initialized = false ∧ s.destroyed = false ∧ s.pins = p ∧ s.trace = []) ∧
  ∃ p, p.valid = true ∧ State.reset = State.resetWith p Config.clkReset

/-- R210 (D2): reset from any state, a destroyed block's among them, samples the straps and puts every element at its reset
value; a configuration that names one line twice is refused (R7). That the inputs, the capabilities and the draw
counter go on is the model's own (log entries 5, 6, 8, 12). -/
def Obligations.ResetRestartsTheBlock : Prop :=
  ∀ (s : State) (p : PinConfig) (rest : List Input), s.inputs = .reset p :: rest →
    (p.valid = true →
      step s = .next { State.resetWith p Config.clkReset with
        inputs := rest, capabilitiesAnswer := s.capabilitiesAnswer, draws := s.draws }) ∧
    (p.valid = false → step s = .refused .invalidConfiguration)

/-! ## Whole-machine rules -/

/-- R32, R35: the invariant holds after reset, whatever the configuration. -/
def Obligations.InvariantHoldsAtReset : Prop :=
  (∀ (p : PinConfig) (k : ClockWord), p.valid = true → BlockInv (State.resetWith p k)) ∧ BlockInv State.reset

/-- R32, R35, R55, R57, R64, R115: every step keeps the invariant. -/
def Obligations.EveryStepKeepsInvariant : Prop :=
  ∀ s t : State, BlockInv s → step s = .next t → BlockInv t

/-- R32: what the invariant says of the registers and of the trace, and that no step but a reset clears a flag. -/
def Obligations.RegistersInRangeAndBusAcquiredOnce : Prop :=
  ∀ s : State, BlockInv s →
    (s.chA.toNat ≤ 4095 ∧ s.chB.toNat ≤ 4095) ∧ s.vref.toNat ≤ 2700000 ∧
    (s.gain.toNat = 1 ∨ s.gain.toNat = 2) ∧
    (∀ t, step s = .next t → (∀ p rest, s.inputs ≠ .reset p :: rest) →
      (s.initialized = true → t.initialized = true) ∧ (s.destroyed = true → t.destroyed = true)) ∧
    s.trace.count .busBegin ≤ 1 ∧ s.trace.count .busEnd ≤ 1 ∧
    (∀ before later, s.trace = before ++ .busEnd :: later → .busBegin ∈ before)

/-- R62, R64: whatever opens a transaction is followed at once by chip-select LOW, exactly three bytes, chip-select HIGH
and the end of the transaction; and no byte and no end stands outside such a frame, since there are three bytes and one end
to each. -/
def Obligations.FramesAreWhole : Prop :=
  ∀ s : State, BlockInv s →
    (∀ (before later : List Event) (k : ClockWord), s.trace = before ++ .txnBegin k :: later →
      ∃ (b1 b2 b3 : Byte) (rest : List Event),
        later = [.pinLevel s.pins.csPin .low, .transfer b1, .transfer b2, .transfer b3,
          .pinLevel s.pins.csPin .high, .txnEnd] ++ rest) ∧
    s.trace.countP (fun e => e matches .transfer _) = 3 * s.trace.count .txnEnd ∧
    s.trace.countP (fun e => e matches .txnBegin _) = s.trace.count .txnEnd

/-- R35: between commands both lines are HIGH if ever driven, and neither is driven before the first INIT. -/
def Obligations.LinesIdleHighBetweenCommands : Prop :=
  ∀ s : State, BlockInv s →
    (s.initialized = true → lineLevel s.pins.csPin s.trace = some .high ∧
      (s.pins.clrPresent = true → lineLevel s.pins.clrPin s.trace = some .high)) ∧
    (s.initialized = false → ∀ p, lineLevel p s.trace = none)

/-- R180, R226: every command completes, whatever its operands, given a live block and capabilities that answer. -/
def Obligations.EveryCommandCompletes : Prop :=
  ∀ (i : Instr) (s : State), Ready s → ∃ t, exec i s = .next t

/-- R180, R227: a run of any finite list of command words, with a TEARDOWN nowhere but last, completes, answers each
word once, and keeps the invariant. That the run goes on past a reserved word (R85, D9) is the model's choice, log
entry 9, where the spec lets a model refuse; that the words stand in a list is log entry 5. -/
def Obligations.RunOfCommandsCompletes : Prop :=
  ∀ (ws : List CommandWord) (s : State), Ready s → BlockInv s → s.inputs = ws.map .command →
    (∀ before w later, ws = before ++ w :: later → later ≠ [] → decode w ≠ .instr .teardown) →
    ∃ t : State, Host.Core.run Sys2Proof.core ws.length s = .next t ∧ t.inputs = [] ∧
      t.responses.length = s.responses.length + ws.length ∧ BlockInv t

/-- R186: a command is stuck exactly when it has an event to emit and the capabilities never complete one. The fault
that stands for it is the model's choice (log entry 12). -/
def Obligations.StuckOnlyOnPendingEvents : Prop :=
  ∀ (i : Instr) (s : State), Accepts s →
    (exec i s = .fault .capabilityStuck ↔
      s.capabilitiesAnswer = false ∧
        ∃ t, exec i { s with capabilitiesAnswer := true } = .next t ∧ t.trace ≠ s.trace)

/-- R7 (D24, log entry 11): a configuration that names one line twice is refused, whatever command is presented. -/
def Obligations.InvalidConfigurationRefused : Prop :=
  ∀ s : State, s.pins.clrPresent = true → s.pins.clrPin = s.pins.csPin →
    (∀ i : Instr, exec i s = .refused .invalidConfiguration) ∧
    (∀ (w : CommandWord) (rest : List Input), s.inputs = .command w :: rest →
      step s = .refused .invalidConfiguration)

/-- R7, R29: the configuration is constant until the next reset. -/
def Obligations.ConfigurationIsConstant : Prop :=
  (∀ (i : Instr) (s t : State), exec i s = .next t → t.pins = s.pins) ∧
  (∀ s t : State, step s = .next t → (∀ p rest, s.inputs ≠ .reset p :: rest) → t.pins = s.pins)

/-- R33: which command writes which element of the state; what is not named keeps its value. -/
def Obligations.CommandsWriteOnlyTheirState : Prop :=
  ∀ (i : Instr) (s t : State), exec i s = .next t →
    (t.chA ≠ s.chA →
      i = .clear ∨ (∃ V g, i = .init V g) ∨ ∃ sel x, sel ≠ .b ∧ (i = .set sel x ∨ i = .setV sel x)) ∧
    (t.chB ≠ s.chB →
      i = .clear ∨ (∃ V g, i = .init V g) ∨ ∃ sel x, sel ≠ .a ∧ (i = .set sel x ∨ i = .setV sel x)) ∧
    (t.vref ≠ s.vref → (∃ V g, i = .init V g) ∨ ∃ V, i = .setVref V) ∧
    (t.gain ≠ s.gain → (∃ V g, i = .init V g) ∨ ∃ g, i = .setGain g) ∧
    (t.clk ≠ s.clk → ∃ k, i = .setClk k) ∧
    (t.initialized ≠ s.initialized → ∃ V g, i = .init V g) ∧
    (t.destroyed ≠ s.destroyed → i = .teardown) ∧
    (t.trace ≠ s.trace → i = .update ∨ i = .clear ∨ i = .teardown ∨ ∃ V g, i = .init V g)

/-- R87: every accepted command answers with one word, a reserved word too. -/
def Obligations.OneAnswerPerCommand : Prop :=
  (∀ (i : Instr) (s t : State), i.wellFormed = true → exec i s = .next t →
    ∃ r : Response, t.responses = s.responses ++ [r] ∧
      (i = .get .a → r.toNat = s.chA.toNat) ∧ (i = .get .b → r.toNat = s.chB.toNat) ∧
      (∀ code, i = .toVolt code → r.toInt = code * s.vref.toNat * s.gain.toNat) ∧
      (∀ V, i = .toCode V → s.vref.toNat * s.gain.toNat ≠ 0 →
        r.toInt = Int.tdiv (8192 * V + s.vref.toNat * s.gain.toNat) (2 * (s.vref.toNat * s.gain.toNat))) ∧
      ((∀ ch, i ≠ .get ch) → (∀ code, i ≠ .toVolt code) → (∀ V, i ≠ .toCode V) → r = 0)) ∧
  (∀ (s t : State) (w : CommandWord) (rest : List Input) (why : Reserved), s.inputs = .command w :: rest →
    decode w = .reserved why → step s = .next t → t.responses = s.responses ++ [0])

/-- R22, R23, R220: the reference voltage and the gain are never sent: blocks that differ in them, and in what they
answered, emit the same events for the same command. -/
def Obligations.EventsDoNotDependOnParameters : Prop :=
  ∀ (i : Instr) (s s' t t' : State),
    s.initialized = s'.initialized → s.pins = s'.pins → s.clk = s'.clk → s.chA = s'.chA → s.chB = s'.chB →
    exec i s = .next t → exec i s' = .next t' →
    ∃ es, t.trace = s.trace ++ es ∧ t'.trace = s'.trace ++ es

/-- R150, R115: what a command leaves in the registers it shares with the conversions, and what it answers, does not
depend on the lifecycle, the clock word, the pins or the trace. For TOCODE and SETV with `D = 0` that is the model's choice,
not the spec's: the free value is applied to the model's own draw counter (log entry 6), which the two states share, where
R154 lets two executions differ. -/
def Obligations.RegistersDoNotDependOnLifecycle : Prop :=
  ∀ (i : Instr) (s s' t t' : State),
    s.chA = s'.chA → s.chB = s'.chB → s.vref = s'.vref → s.gain = s'.gain → s.draws = s'.draws →
    exec i s = .next t → exec i s' = .next t' →
    t.chA = t'.chA ∧ t.chB = t'.chB ∧ t.vref = t'.vref ∧ t.gain = t'.gain ∧
    ∃ r, t.responses = s.responses ++ [r] ∧ t'.responses = s'.responses ++ [r]

/-- R36: after an INIT, and after an UPDATE or a CLEAR that emitted events, the chip view of R37 is the registers. -/
def Obligations.ChipViewFollowsRegisters : Prop :=
  ∀ (i : Instr) (s t : State), BlockInv s →
    (∃ V g, i = .init V g) ∨ (s.initialized = true ∧ (i = .update ∨ i = .clear)) →
    exec i s = .next t → chipView t.pins t.trace = some (t.chA, t.chB)

/-- R215: SET changes GET at once and the chip only with the next UPDATE. -/
def Obligations.SetReachesChipOnlyWithUpdate : Prop :=
  ∀ (s : State) (sel : Selector) (code : Int), Ready s → BlockInv s → s.initialized = true →
    ∃ t u, exec (.set sel code) s = .next t ∧ exec .update t = .next u ∧
      chipView t.pins t.trace = chipView s.pins s.trace ∧
      chipView u.pins u.trace = some (t.chA, t.chB) ∧
      (sel = .a ∨ sel = .both → (t.chA.toNat : Int) = max 0 (min code 4095)) ∧
      (sel = .b ∨ sel = .both → (t.chB.toNat : Int) = max 0 (min code 4095))

/-- R141, R188, R225: the one timed wait is the clear pulse's, ten time units, inside CLEAR or INIT. -/
def Obligations.OnlyTheClearPulseWaits : Prop :=
  ∀ (i : Instr) (s t : State) (es : List Event) (n : Nat), exec i s = .next t → t.trace = s.trace ++ es →
    .delay n ∈ es →
    n = 10 ∧ s.pins.clrPresent = true ∧ (i = .clear ∨ ∃ V g, i = .init V g) ∧
      (es.map Event.minTime).sum = 10 * Config.timeUnit

/-- R183: with nothing presented nothing changes. That a step with no input is a wait is the model's choice (log entry
5). -/
def Obligations.IdleBlockKeepsItsState : Prop :=
  ∀ s : State, s.inputs = [] → s.pins.valid = true → step s = .next s
end

