-- ==== Sys2Proof/Laws/Encoding.lean ====
section
/-! SUPPORT. The fields of a command word that was put together from fields (30_encoding.md R80), and the selectors. -/

namespace Sys2Proof

variable (op : BitVec 4) (sel : BitVec 2) (aux : BitVec 8) (imm : BitVec 32)

@[simp] theorem opField_commandWord : opField (commandWord op sel aux imm) = op := by
  apply BitVec.eq_of_getLsbD_eq; intro i hi
  simp only [opField, commandWord, BitVec.getLsbD_extractLsb', BitVec.getLsbD_append]
  simp [hi, show ¬ 44 + i < 32 by omega, show ¬ 44 + i - 32 < 8 by omega, show ¬ 44 + i - 32 - 8 < 2 by omega,
    show ¬ 44 + i - 32 - 8 - 2 < 2 by omega, show 44 + i - 32 - 8 - 2 - 2 = i by omega]

@[simp] theorem selField_commandWord : selField (commandWord op sel aux imm) = sel := by
  apply BitVec.eq_of_getLsbD_eq; intro i hi
  simp only [selField, commandWord, BitVec.getLsbD_extractLsb', BitVec.getLsbD_append]
  simp [hi, show ¬ 42 + i < 32 by omega, show ¬ 42 + i - 32 < 8 by omega, show ¬ 42 + i - 32 - 8 < 2 by omega,
    show 42 + i - 32 - 8 - 2 = i by omega]

@[simp] theorem auxField_commandWord : auxField (commandWord op sel aux imm) = aux := by
  apply BitVec.eq_of_getLsbD_eq; intro i hi
  simp only [auxField, commandWord, BitVec.getLsbD_extractLsb', BitVec.getLsbD_append]
  simp [hi]

@[simp] theorem immField_commandWord : immField (commandWord op sel aux imm) = imm := by
  apply BitVec.eq_of_getLsbD_eq; intro i hi
  simp only [immField, commandWord, BitVec.getLsbD_extractLsb', BitVec.getLsbD_append]
  simp [hi]

/-- A word is its five fields; `z` is bits 41:40. -/
theorem word_eq_fields (w : CommandWord) :
    w = opField w ++ selField w ++ w.extractLsb' 40 2 ++ auxField w ++ immField w := by
  apply BitVec.eq_of_getLsbD_eq; intro i hi
  simp only [opField, selField, auxField, immField, BitVec.getLsbD_append, BitVec.getLsbD_extractLsb']
  by_cases h1 : i < 32
  · simp [h1]
  by_cases h2 : i - 32 < 8
  · simp [h1, h2]; congr 1; omega
  by_cases h3 : i - 32 - 8 < 2
  · simp [h1, h2, h3]; congr 1; omega
  by_cases h4 : i - 32 - 8 - 2 < 2
  · simp [h1, h2, h3, h4]; congr 1; omega
  · simp [h1, h2, h3, h4, show i - 32 - 8 - 2 - 2 < 4 by omega]; congr 1; omega

/-- Masking a word masks its fields, and `z` goes. -/
theorem and_commandWord (w : CommandWord) :
    w &&& commandWord op sel aux imm =
      commandWord (opField w &&& op) (selField w &&& sel) (auxField w &&& aux) (immField w &&& imm) := by
  conv_lhs => rw [word_eq_fields w]
  apply BitVec.eq_of_getLsbD_eq; intro i hi
  simp only [commandWord, BitVec.getLsbD_and, BitVec.getLsbD_append]
  by_cases h1 : i < 32
  · simp [h1]
  by_cases h2 : i - 32 < 8
  · simp [h1, h2]
  by_cases h3 : i - 32 - 8 < 2
  · simp [h1, h2, h3]
  by_cases h4 : i - 32 - 8 - 2 < 2
  · simp [h1, h2, h3, h4]
  · simp [h1, h2, h3, h4, show i - 32 - 8 - 2 - 2 < 4 by omega]

@[simp] theorem decodeSelector_encodeSelector (s : Selector) : decodeSelector (encodeSelector s) = some s := by
  cases s <;> rfl

@[simp] theorem decodeChannel_encodeChannel (c : Channel) : decodeChannel (encodeChannel c) = some c := by
  cases c <;> rfl

/-- A selector comes from its own two bits and no others (R82 a). -/
theorem encodeSelector_of_decodeSelector {sel : BitVec 2} {c : Selector} (h : decodeSelector sel = some c) :
    encodeSelector c = sel := by
  revert c h; revert sel; decide +revert

theorem encodeChannel_of_decodeChannel {sel : BitVec 2} {c : Channel} (h : decodeChannel sel = some c) :
    encodeChannel c = sel := by
  revert c h; revert sel; decide +revert

theorem fitsImm_toInt (x : BitVec 32) : fitsImm x.toInt = true := by
  have h1 := BitVec.le_toInt x
  have h2 := BitVec.toInt_lt (x := x)
  simp only [fitsImm, Bool.and_eq_true, decide_eq_true_eq]
  constructor <;> omega

theorem fitsAux_toInt (x : BitVec 8) : fitsAux x.toInt = true := by
  have h1 := BitVec.le_toInt x
  have h2 := BitVec.toInt_lt (x := x)
  simp only [fitsAux, Bool.and_eq_true, decide_eq_true_eq]
  constructor <;> omega

end Sys2Proof
end

