-- ==== Sys2Proof/Laws/State.lean ====
section
/-! SUPPORT. One lemma per field of State and per update, so that no later proof unfolds a record update. -/

namespace Sys2Proof.Machine

variable (s : State)

/-! `State.emit` -/

@[simp] theorem emit_chA (es : List Event) : (s.emit es).chA = s.chA := rfl
@[simp] theorem emit_chB (es : List Event) : (s.emit es).chB = s.chB := rfl
@[simp] theorem emit_vref (es : List Event) : (s.emit es).vref = s.vref := rfl
@[simp] theorem emit_gain (es : List Event) : (s.emit es).gain = s.gain := rfl
@[simp] theorem emit_clk (es : List Event) : (s.emit es).clk = s.clk := rfl
@[simp] theorem emit_initialized (es : List Event) : (s.emit es).initialized = s.initialized := rfl
@[simp] theorem emit_destroyed (es : List Event) : (s.emit es).destroyed = s.destroyed := rfl
@[simp] theorem emit_pins (es : List Event) : (s.emit es).pins = s.pins := rfl
@[simp] theorem emit_capabilitiesAnswer (es : List Event) : (s.emit es).capabilitiesAnswer = s.capabilitiesAnswer := rfl
@[simp] theorem emit_inputs (es : List Event) : (s.emit es).inputs = s.inputs := rfl
@[simp] theorem emit_trace (es : List Event) : (s.emit es).trace = s.trace ++ es := rfl
@[simp] theorem emit_responses (es : List Event) : (s.emit es).responses = s.responses := rfl
@[simp] theorem emit_draws (es : List Event) : (s.emit es).draws = s.draws := rfl

/-! `State.respond` -/

@[simp] theorem respond_chA (r : Response) : (s.respond r).chA = s.chA := rfl
@[simp] theorem respond_chB (r : Response) : (s.respond r).chB = s.chB := rfl
@[simp] theorem respond_vref (r : Response) : (s.respond r).vref = s.vref := rfl
@[simp] theorem respond_gain (r : Response) : (s.respond r).gain = s.gain := rfl
@[simp] theorem respond_clk (r : Response) : (s.respond r).clk = s.clk := rfl
@[simp] theorem respond_initialized (r : Response) : (s.respond r).initialized = s.initialized := rfl
@[simp] theorem respond_destroyed (r : Response) : (s.respond r).destroyed = s.destroyed := rfl
@[simp] theorem respond_pins (r : Response) : (s.respond r).pins = s.pins := rfl
@[simp] theorem respond_capabilitiesAnswer (r : Response) : (s.respond r).capabilitiesAnswer = s.capabilitiesAnswer := rfl
@[simp] theorem respond_inputs (r : Response) : (s.respond r).inputs = s.inputs := rfl
@[simp] theorem respond_trace (r : Response) : (s.respond r).trace = s.trace := rfl
@[simp] theorem respond_responses (r : Response) : (s.respond r).responses = s.responses ++ [r] := rfl
@[simp] theorem respond_draws (r : Response) : (s.respond r).draws = s.draws := rfl

/-! `State.setChannels` -/

@[simp] theorem setChannels_chA (sel : Selector) (v : Code) : (s.setChannels sel v).chA = if sel.covers .a then v else s.chA := rfl
@[simp] theorem setChannels_chB (sel : Selector) (v : Code) : (s.setChannels sel v).chB = if sel.covers .b then v else s.chB := rfl
@[simp] theorem setChannels_vref (sel : Selector) (v : Code) : (s.setChannels sel v).vref = s.vref := rfl
@[simp] theorem setChannels_gain (sel : Selector) (v : Code) : (s.setChannels sel v).gain = s.gain := rfl
@[simp] theorem setChannels_clk (sel : Selector) (v : Code) : (s.setChannels sel v).clk = s.clk := rfl
@[simp] theorem setChannels_initialized (sel : Selector) (v : Code) : (s.setChannels sel v).initialized = s.initialized := rfl
@[simp] theorem setChannels_destroyed (sel : Selector) (v : Code) : (s.setChannels sel v).destroyed = s.destroyed := rfl
@[simp] theorem setChannels_pins (sel : Selector) (v : Code) : (s.setChannels sel v).pins = s.pins := rfl
@[simp] theorem setChannels_capabilitiesAnswer (sel : Selector) (v : Code) : (s.setChannels sel v).capabilitiesAnswer = s.capabilitiesAnswer := rfl
@[simp] theorem setChannels_inputs (sel : Selector) (v : Code) : (s.setChannels sel v).inputs = s.inputs := rfl
@[simp] theorem setChannels_trace (sel : Selector) (v : Code) : (s.setChannels sel v).trace = s.trace := rfl
@[simp] theorem setChannels_responses (sel : Selector) (v : Code) : (s.setChannels sel v).responses = s.responses := rfl
@[simp] theorem setChannels_draws (sel : Selector) (v : Code) : (s.setChannels sel v).draws = s.draws := rfl

/-! `State.storeVref` -/

@[simp] theorem storeVref_chA (V : Int) : (s.storeVref V).chA = s.chA := rfl
@[simp] theorem storeVref_chB (V : Int) : (s.storeVref V).chB = s.chB := rfl
@[simp] theorem storeVref_vref (V : Int) : (s.storeVref V).vref = clampVref V := rfl
@[simp] theorem storeVref_gain (V : Int) : (s.storeVref V).gain = s.gain := rfl
@[simp] theorem storeVref_clk (V : Int) : (s.storeVref V).clk = s.clk := rfl
@[simp] theorem storeVref_initialized (V : Int) : (s.storeVref V).initialized = s.initialized := rfl
@[simp] theorem storeVref_destroyed (V : Int) : (s.storeVref V).destroyed = s.destroyed := rfl
@[simp] theorem storeVref_pins (V : Int) : (s.storeVref V).pins = s.pins := rfl
@[simp] theorem storeVref_capabilitiesAnswer (V : Int) : (s.storeVref V).capabilitiesAnswer = s.capabilitiesAnswer := rfl
@[simp] theorem storeVref_inputs (V : Int) : (s.storeVref V).inputs = s.inputs := rfl
@[simp] theorem storeVref_trace (V : Int) : (s.storeVref V).trace = s.trace := rfl
@[simp] theorem storeVref_responses (V : Int) : (s.storeVref V).responses = s.responses := rfl
@[simp] theorem storeVref_draws (V : Int) : (s.storeVref V).draws = s.draws := rfl

/-! `State.storeGain` -/

@[simp] theorem storeGain_chA (g : Int) : (s.storeGain g).chA = s.chA := rfl
@[simp] theorem storeGain_chB (g : Int) : (s.storeGain g).chB = s.chB := rfl
@[simp] theorem storeGain_vref (g : Int) : (s.storeGain g).vref = s.vref := rfl
@[simp] theorem storeGain_gain (g : Int) : (s.storeGain g).gain = clampGain g := rfl
@[simp] theorem storeGain_clk (g : Int) : (s.storeGain g).clk = s.clk := rfl
@[simp] theorem storeGain_initialized (g : Int) : (s.storeGain g).initialized = s.initialized := rfl
@[simp] theorem storeGain_destroyed (g : Int) : (s.storeGain g).destroyed = s.destroyed := rfl
@[simp] theorem storeGain_pins (g : Int) : (s.storeGain g).pins = s.pins := rfl
@[simp] theorem storeGain_capabilitiesAnswer (g : Int) : (s.storeGain g).capabilitiesAnswer = s.capabilitiesAnswer := rfl
@[simp] theorem storeGain_inputs (g : Int) : (s.storeGain g).inputs = s.inputs := rfl
@[simp] theorem storeGain_trace (g : Int) : (s.storeGain g).trace = s.trace := rfl
@[simp] theorem storeGain_responses (g : Int) : (s.storeGain g).responses = s.responses := rfl
@[simp] theorem storeGain_draws (g : Int) : (s.storeGain g).draws = s.draws := rfl

/-! `State.storeClk` -/

@[simp] theorem storeClk_chA (k : ClockWord) : (s.storeClk k).chA = s.chA := rfl
@[simp] theorem storeClk_chB (k : ClockWord) : (s.storeClk k).chB = s.chB := rfl
@[simp] theorem storeClk_vref (k : ClockWord) : (s.storeClk k).vref = s.vref := rfl
@[simp] theorem storeClk_gain (k : ClockWord) : (s.storeClk k).gain = s.gain := rfl
@[simp] theorem storeClk_clk (k : ClockWord) : (s.storeClk k).clk = k := rfl
@[simp] theorem storeClk_initialized (k : ClockWord) : (s.storeClk k).initialized = s.initialized := rfl
@[simp] theorem storeClk_destroyed (k : ClockWord) : (s.storeClk k).destroyed = s.destroyed := rfl
@[simp] theorem storeClk_pins (k : ClockWord) : (s.storeClk k).pins = s.pins := rfl
@[simp] theorem storeClk_capabilitiesAnswer (k : ClockWord) : (s.storeClk k).capabilitiesAnswer = s.capabilitiesAnswer := rfl
@[simp] theorem storeClk_inputs (k : ClockWord) : (s.storeClk k).inputs = s.inputs := rfl
@[simp] theorem storeClk_trace (k : ClockWord) : (s.storeClk k).trace = s.trace := rfl
@[simp] theorem storeClk_responses (k : ClockWord) : (s.storeClk k).responses = s.responses := rfl
@[simp] theorem storeClk_draws (k : ClockWord) : (s.storeClk k).draws = s.draws := rfl

/-! `State.markInitialized` -/

@[simp] theorem markInitialized_chA : (s.markInitialized).chA = s.chA := rfl
@[simp] theorem markInitialized_chB : (s.markInitialized).chB = s.chB := rfl
@[simp] theorem markInitialized_vref : (s.markInitialized).vref = s.vref := rfl
@[simp] theorem markInitialized_gain : (s.markInitialized).gain = s.gain := rfl
@[simp] theorem markInitialized_clk : (s.markInitialized).clk = s.clk := rfl
@[simp] theorem markInitialized_initialized : (s.markInitialized).initialized = true := rfl
@[simp] theorem markInitialized_destroyed : (s.markInitialized).destroyed = s.destroyed := rfl
@[simp] theorem markInitialized_pins : (s.markInitialized).pins = s.pins := rfl
@[simp] theorem markInitialized_capabilitiesAnswer : (s.markInitialized).capabilitiesAnswer = s.capabilitiesAnswer := rfl
@[simp] theorem markInitialized_inputs : (s.markInitialized).inputs = s.inputs := rfl
@[simp] theorem markInitialized_trace : (s.markInitialized).trace = s.trace := rfl
@[simp] theorem markInitialized_responses : (s.markInitialized).responses = s.responses := rfl
@[simp] theorem markInitialized_draws : (s.markInitialized).draws = s.draws := rfl

/-! `State.markDestroyed` -/

@[simp] theorem markDestroyed_chA : (s.markDestroyed).chA = s.chA := rfl
@[simp] theorem markDestroyed_chB : (s.markDestroyed).chB = s.chB := rfl
@[simp] theorem markDestroyed_vref : (s.markDestroyed).vref = s.vref := rfl
@[simp] theorem markDestroyed_gain : (s.markDestroyed).gain = s.gain := rfl
@[simp] theorem markDestroyed_clk : (s.markDestroyed).clk = s.clk := rfl
@[simp] theorem markDestroyed_initialized : (s.markDestroyed).initialized = s.initialized := rfl
@[simp] theorem markDestroyed_destroyed : (s.markDestroyed).destroyed = true := rfl
@[simp] theorem markDestroyed_pins : (s.markDestroyed).pins = s.pins := rfl
@[simp] theorem markDestroyed_capabilitiesAnswer : (s.markDestroyed).capabilitiesAnswer = s.capabilitiesAnswer := rfl
@[simp] theorem markDestroyed_inputs : (s.markDestroyed).inputs = s.inputs := rfl
@[simp] theorem markDestroyed_trace : (s.markDestroyed).trace = s.trace := rfl
@[simp] theorem markDestroyed_responses : (s.markDestroyed).responses = s.responses := rfl
@[simp] theorem markDestroyed_draws : (s.markDestroyed).draws = s.draws := rfl

/-! `State.draw` -/

@[simp] theorem draw_chA : s.draw.2.chA = s.chA := rfl
@[simp] theorem draw_chB : s.draw.2.chB = s.chB := rfl
@[simp] theorem draw_vref : s.draw.2.vref = s.vref := rfl
@[simp] theorem draw_gain : s.draw.2.gain = s.gain := rfl
@[simp] theorem draw_clk : s.draw.2.clk = s.clk := rfl
@[simp] theorem draw_initialized : s.draw.2.initialized = s.initialized := rfl
@[simp] theorem draw_destroyed : s.draw.2.destroyed = s.destroyed := rfl
@[simp] theorem draw_pins : s.draw.2.pins = s.pins := rfl
@[simp] theorem draw_capabilitiesAnswer : s.draw.2.capabilitiesAnswer = s.capabilitiesAnswer := rfl
@[simp] theorem draw_inputs : s.draw.2.inputs = s.inputs := rfl
@[simp] theorem draw_trace : s.draw.2.trace = s.trace := rfl
@[simp] theorem draw_responses : s.draw.2.responses = s.responses := rfl
@[simp] theorem draw_draws : s.draw.2.draws = s.draws + 1 := rfl

/-! `State.resetWith` -/

variable (pins : PinConfig) (clk : ClockWord)

@[simp] theorem resetWith_chA : (State.resetWith pins clk).chA = 0 := rfl
@[simp] theorem resetWith_chB : (State.resetWith pins clk).chB = 0 := rfl
@[simp] theorem resetWith_vref : (State.resetWith pins clk).vref = 2048000 := rfl
@[simp] theorem resetWith_gain : (State.resetWith pins clk).gain = 2 := rfl
@[simp] theorem resetWith_clk : (State.resetWith pins clk).clk = clk := rfl
@[simp] theorem resetWith_initialized : (State.resetWith pins clk).initialized = false := rfl
@[simp] theorem resetWith_destroyed : (State.resetWith pins clk).destroyed = false := rfl
@[simp] theorem resetWith_pins : (State.resetWith pins clk).pins = pins := rfl
@[simp] theorem resetWith_capabilitiesAnswer : (State.resetWith pins clk).capabilitiesAnswer = true := rfl
@[simp] theorem resetWith_inputs : (State.resetWith pins clk).inputs = [] := rfl
@[simp] theorem resetWith_trace : (State.resetWith pins clk).trace = [] := rfl
@[simp] theorem resetWith_responses : (State.resetWith pins clk).responses = [] := rfl
@[simp] theorem resetWith_draws : (State.resetWith pins clk).draws = 0 := rfl

end Sys2Proof.Machine
end

