-- ==== Sys2Proof/Laws/Operands.lean ====
section
/-! SUPPORT. The clamps and the conversions, said once (00_scope.md R11, 44_conversion.md R150 to R152). -/

namespace Sys2Proof.Machine

theorem clamp_eq_max_min (x lo hi : Int) (h : lo ≤ hi) : clamp x lo hi = max lo (min x hi) := by
  unfold clamp; split <;> [skip; split] <;> omega

theorem clamp_bounds (x lo hi : Int) (h : lo ≤ hi) : lo ≤ clamp x lo hi ∧ clamp x lo hi ≤ hi := by
  rw [clamp_eq_max_min x lo hi h]; omega

theorem toNat_ofInt_of_bounds {w : Nat} {x : Int} (h0 : 0 ≤ x) (h : x < 2 ^ w) :
    ((BitVec.ofInt w x).toNat : Int) = x := by
  rw [BitVec.toNat_ofInt, Int.emod_eq_of_lt h0 (by exact_mod_cast h)]
  omega

theorem toInt_ofInt_of_bounds {w : Nat} {x : Int} (h0 : -2 ^ w ≤ x) (h : x < 2 ^ w) :
    (BitVec.ofInt (w + 1) x).toInt = x := by
  rw [BitVec.toInt_ofInt]
  have hp : ((2 ^ (w + 1) : Nat) : Int) = 2 * 2 ^ w := by push_cast; ring
  apply Int.bmod_eq_of_le_mul_two <;> rw [hp] <;> omega

theorem clampCode_toNat (c : Int) : ((clampCode c).toNat : Int) = max 0 (min c 4095) := by
  have h := clamp_bounds c 0 4095 (by omega)
  rw [clampCode, Config.codeMax, toNat_ofInt_of_bounds h.1 (by omega), clamp_eq_max_min _ _ _ (by omega)]

theorem clampVref_toNat (V : Int) : ((clampVref V).toNat : Int) = max 0 (min V 2700000) := by
  have h := clamp_bounds V 0 2700000 (by omega)
  rw [clampVref, Config.vrefMax, toNat_ofInt_of_bounds h.1 (by omega), clamp_eq_max_min _ _ _ (by omega)]

theorem clampGain_toNat (g : Int) : ((clampGain g).toNat : Int) = max 1 (min g 2) := by
  have h := clamp_bounds g 1 2 (by omega)
  rw [clampGain, Config.gainMin, Config.gainMax, toNat_ofInt_of_bounds (by omega) (by omega),
    clamp_eq_max_min _ _ _ (by omega)]

theorem clampGain_legal (g : Int) : clampGain g = 1 ∨ clampGain g = 2 := by
  have h := clampGain_toNat g
  rcases (by omega : (clampGain g).toNat = 1 ∨ (clampGain g).toNat = 2) with h | h
  · exact .inl (BitVec.eq_of_toNat_eq h)
  · exact .inr (BitVec.eq_of_toNat_eq h)

theorem response_toInt {x : Int} (h0 : -2 ^ 63 ≤ x) (h : x < 2 ^ 63) : (response x).toInt = x :=
  toInt_ofInt_of_bounds h0 h

@[simp] theorem response_zero : response 0 = 0 := rfl

@[simp] theorem covers_both (c : Channel) : Selector.both.covers c = true := by cases c <;> rfl

theorem fullScale_nonneg (s : State) : 0 ≤ s.fullScale := by
  unfold State.fullScale; positivity

/-- Both factors fit their registers, so the product fits 24 bits whatever the state. -/
theorem fullScale_lt (s : State) : s.fullScale < 2 ^ 24 := by
  have hv : s.vref.toNat ≤ 2 ^ 22 - 1 := by have := s.vref.isLt; omega
  have hg : s.gain.toNat ≤ 3 := by have := s.gain.isLt; omega
  have : s.vref.toNat * s.gain.toNat ≤ (2 ^ 22 - 1) * 3 := Nat.mul_le_mul hv hg
  unfold State.fullScale; norm_cast; omega

theorem convert_of_ne (s : State) (V : Int) (h : s.fullScale ≠ 0) :
    s.convert V = (voltToCode s.fullScale V, s) := if_neg h

theorem convert_of_zero (s : State) (V : Int) (h : s.fullScale = 0) : s.convert V = s.draw := if_pos h

/-- The converter changes nothing but the draw counter. -/
theorem convert_state (s : State) (V : Int) :
    (s.convert V).2 = { s with draws := if s.fullScale = 0 then s.draws + 1 else s.draws } := by
  by_cases h : s.fullScale = 0
  · simp only [convert_of_zero s V h, h, if_true, State.draw]
  · simp only [convert_of_ne s V h, h, if_false]

/-- `round_hu(q)` with `q = 4096 V / D` (R152), as division of non-negative integers on each side of zero. -/
theorem voltToCode_spec (D V : Int) (h : 0 < D) :
    (0 ≤ 8192 * V + D → 2 * D * voltToCode D V ≤ 8192 * V + D ∧ 8192 * V + D < 2 * D * (voltToCode D V + 1)) ∧
    (8192 * V + D < 0 → 2 * D * (voltToCode D V - 1) < 8192 * V + D ∧ 8192 * V + D ≤ 2 * D * voltToCode D V) := by
  have hn : 2 * Config.scale * V + D = 8192 * V + D := by unfold Config.scale; ring
  unfold voltToCode
  rw [hn]
  generalize 8192 * V + D = n
  have hd : 0 < 2 * D := by omega
  constructor
  · intro h0
    rw [Int.tdiv_eq_ediv_of_nonneg h0]
    exact ⟨Int.mul_ediv_self_le hd.ne', Int.lt_mul_ediv_self_add hd |>.trans_eq (by ring)⟩
  · intro h0
    have hneg : n.tdiv (2 * D) = -((-n) / (2 * D)) := by
      rw [← Int.tdiv_eq_ediv_of_nonneg (by omega : 0 ≤ -n), Int.neg_tdiv, neg_neg]
    have h1 := Int.mul_ediv_self_le (x := -n) hd.ne'
    have h2 := Int.lt_mul_ediv_self_add (x := -n) hd
    rw [hneg]
    constructor
    · have : 2 * D * (-(-n / (2 * D)) - 1) = -(2 * D * (-n / (2 * D)) + 2 * D) := by ring
      omega
    · have : 2 * D * -(-n / (2 * D)) = -(2 * D * (-n / (2 * D))) := by ring
      omega

/-- A 32-bit voltage converts to at most 2^43 in magnitude (R158). -/
theorem voltToCode_bound {D V : Int} (hV : -2 ^ 31 ≤ V ∧ V < 2 ^ 31) (hD : 0 < D) : |voltToCode D V| ≤ 2 ^ 43 := by
  obtain ⟨h1, h2⟩ := voltToCode_spec D V hD
  generalize voltToCode D V = c at *
  rw [abs_le]
  by_cases hn : 0 ≤ 8192 * V + D
  · obtain ⟨h3, h4⟩ := h1 hn
    constructor
    · by_contra hc; nlinarith
    · by_contra hc
      have : 2 ^ 43 + 1 ≤ c := by omega
      nlinarith
  · obtain ⟨h3, h4⟩ := h2 (by omega)
    constructor
    · by_contra hc
      have : c ≤ -2 ^ 43 - 1 := by omega
      nlinarith
    · by_contra hc; nlinarith

end Sys2Proof.Machine
end

