-- ==== Sys2Proof/Laws/Ops.lean ====
section
/-! SUPPORT. The shared operations, each as the one update it makes, and the acceptance of a command, inverted once. -/

namespace Sys2Proof.Machine

/-! Acceptance -/

/-- Everything an accepted command can do: it runs whole and answers once, and only where it may. -/
theorem accept_next_iff {s t : State} {body : State → State × Response} :
    accept s body = .next t ↔
      s.pins.valid = true ∧ s.destroyed = false ∧ capabilitiesComplete s (body s).1 = true ∧
        t = (body s).1.respond (body s).2 := by
  unfold accept
  cases hv : s.pins.valid <;> cases hd : s.destroyed <;>
    cases hc : capabilitiesComplete s (body s).1 <;> simp [eq_comm]

theorem accept_invalid {s : State} {body : State → State × Response} (h : s.pins.valid = false) :
    accept s body = .refused .invalidConfiguration := by simp [accept, h]

theorem accept_destroyed {s : State} {body : State → State × Response} (h : s.pins.valid = true)
    (hd : s.destroyed = true) : accept s body = .refused .destroyed := by simp [accept, h, hd]

theorem accept_stuck_iff {s : State} {body : State → State × Response} :
    accept s body = .fault .capabilityStuck ↔
      s.pins.valid = true ∧ s.destroyed = false ∧ capabilitiesComplete s (body s).1 = false := by
  unfold accept
  cases hv : s.pins.valid <;> cases hd : s.destroyed <;>
    cases hc : capabilitiesComplete s (body s).1 <;> simp

/-- Events complete when the capabilities answer or there are none. -/
theorem capabilitiesComplete_emitted {s t : State} {es : List Event} (h : t.trace = s.trace ++ es) :
    capabilitiesComplete s t = (s.capabilitiesAnswer || es.isEmpty) := by
  unfold capabilitiesComplete; rw [h]; cases es <;> simp

theorem Ready.accepts {s : State} (h : Ready s) : Accepts s := ⟨h.pins_valid, h.alive⟩

/-! The sequences that emit -/

theorem emit_nil (s : State) : s.emit [] = s := by simp [State.emit]

theorem emit_emit (s : State) (es fs : List Event) : (s.emit es).emit fs = s.emit (es ++ fs) := by
  simp [State.emit]

/-- The events of UPDATE (R132). -/
def updateEvents (s : State) : List Event :=
  if s.initialized then frameEvents s.pins.csPin s.clk (pack s.chA s.chB) else []

/-- The events of a clear of the chip (R140 to R142). -/
def clearChipEvents (s : State) : List Event :=
  if s.pins.clrPresent then
    [.pinLevel s.pins.clrPin .low, .delay Config.clrHoldUnits, .pinLevel s.pins.clrPin .high]
  else frameEvents s.pins.csPin s.clk (0, 0, 0)

/-- The events of CLEAR (R140, R143). -/
def clearEvents (s : State) : List Event := if s.initialized then clearChipEvents s else []

/-- The events of the set-up of the lines (R111). -/
def setupEvents (s : State) : List Event :=
  lineSetup s.pins.csPin ++ (if s.pins.clrPresent then lineSetup s.pins.clrPin else [])

/-- The events of INIT (R111, R112). -/
def initEvents (s : State) : List Event :=
  (if s.initialized then [] else [.busBegin]) ++ setupEvents s ++ clearChipEvents s

/-- The events of TEARDOWN (R113). -/
def teardownEvents (s : State) : List Event := if s.initialized then [.busEnd] else []

theorem pack_zero : pack 0#12 0#12 = (0#8, 0#8, 0#8) := by decide

theorem sendFrame_eq (s : State) : s.sendFrame = s.emit (updateEvents s) := by
  unfold State.sendFrame State.ifInitialized updateEvents
  split <;> simp [emit_nil]

theorem clearAll_eq (s : State) : s.clearAll = (s.setChannels .both 0).emit (clearEvents s) := by
  unfold State.clearAll State.ifInitialized clearEvents clearChipEvents State.clearChip
  cases hi : s.initialized <;> cases hc : s.pins.clrPresent <;>
    simp [hi, hc, emit_nil, State.hwClear, sendFrame_eq, updateEvents, pack_zero]

theorem acquireBus_eq (s : State) :
    s.acquireBus = (s.emit (if s.initialized then [] else [.busBegin])).markInitialized := by
  unfold State.acquireBus
  cases hi : s.initialized
  · simp
  · simp [emit_nil]; cases s; simp_all [State.markInitialized]

theorem setupLines_eq (s : State) : s.setupLines = s.emit (setupEvents s) := by
  unfold State.setupLines setupEvents
  cases hc : s.pins.clrPresent <;> simp [hc, emit_emit]

theorem releaseBus_eq (s : State) : s.releaseBus = s.emit (teardownEvents s) := by
  unfold State.releaseBus State.ifInitialized teardownEvents
  split <;> simp [emit_nil]

end Sys2Proof.Machine
end

