-- ==== Sys2Proof/Laws/Exec.lean ====
section
/-! SUPPORT. What a command and a step can do, said once: `exec_next_iff` and `step_next_cases`. Later proofs cite these
and unfold no meaning. -/

namespace Sys2Proof.Machine

/-- The events a command emits in a state that accepts it (R33, R115). -/
def eventsOf (i : Instr) (s : State) : List Event :=
  match i with
  | .init _ _ => initEvents s
  | .update => updateEvents s
  | .clear => clearEvents s
  | .teardown => teardownEvents s
  | .set _ _ => []
  | .get _ => []
  | .toVolt _ => []
  | .toCode _ => []
  | .setV _ _ => []
  | .setVref _ => []
  | .setGain _ => []
  | .setClk _ => []

/-- The response of a command (R87). -/
def answerOf (i : Instr) (s : State) : Response :=
  match i with
  | .get ch => (s.channel ch).setWidth 64
  | .toVolt code => response (codeToVolt s.fullScale code)
  | .toCode V => response (s.convert V).1
  | .init _ _ => 0
  | .update => 0
  | .clear => 0
  | .teardown => 0
  | .set _ _ => 0
  | .setV _ _ => 0
  | .setVref _ => 0
  | .setGain _ => 0
  | .setClk _ => 0

/-- The registers a command leaves (R33), before its events and its answer are recorded. -/
def registersAfter (i : Instr) (s : State) : State :=
  match i with
  | .init V g => { s with chA := 0, chB := 0, vref := clampVref V, gain := clampGain g, initialized := true }
  | .set sel code => s.setChannels sel (clampCode code)
  | .get _ => s
  | .update => s
  | .clear => { s with chA := 0, chB := 0 }
  | .toVolt _ => s
  | .toCode V => (s.convert V).2
  | .setV sel V => (s.convert V).2.setChannels sel (clampCode (s.convert V).1)
  | .setVref V => { s with vref := clampVref V }
  | .setGain g => { s with gain := clampGain g }
  | .setClk k => { s with clk := k }
  | .teardown => { s with destroyed := true }

/-- The state after a command. -/
def after (i : Instr) (s : State) : State :=
  ((registersAfter i s).emit (eventsOf i s)).respond (answerOf i s)

/-- A command run whole is its registers, its events and its answer. -/
theorem exec_eq_accept (i : Instr) (s : State) :
    exec i s = accept s fun s => ((registersAfter i s).emit (eventsOf i s), answerOf i s) := by
  cases i with
  | init V g =>
    simp only [exec, execInit, registersAfter, eventsOf, answerOf, response_zero]
    congr; funext s
    simp [clearAll_eq, setupLines_eq, acquireBus_eq]
    simp [State.storeGain, State.storeVref, State.emit, State.markInitialized, State.setChannels,
      clearEvents, setupEvents, clearChipEvents, initEvents]
    rfl
  | clear =>
    simp only [exec, execClear, registersAfter, eventsOf, answerOf, response_zero, clearAll_eq]
    rfl
  | update => simp [exec, execUpdate, registersAfter, eventsOf, answerOf, sendFrame_eq]
  | teardown =>
    simp [exec, execTeardown, registersAfter, eventsOf, answerOf, releaseBus_eq, State.markDestroyed, State.emit]
  | set sel code => simp [exec, execSet, registersAfter, eventsOf, answerOf, emit_nil, State.storeCode]
  | get ch => simp [exec, execGet, registersAfter, eventsOf, answerOf, emit_nil]
  | toVolt code => simp [exec, execToVolt, registersAfter, eventsOf, answerOf, emit_nil]
  | toCode V => simp [exec, execToCode, registersAfter, eventsOf, answerOf, emit_nil]
  | setV sel V => simp [exec, execSetV, registersAfter, eventsOf, answerOf, emit_nil, State.storeCode]
  | setVref V => simp [exec, execSetVref, registersAfter, eventsOf, answerOf, emit_nil, State.storeVref]
  | setGain g => simp [exec, execSetGain, registersAfter, eventsOf, answerOf, emit_nil, State.storeGain]
  | setClk k => simp [exec, execSetClk, registersAfter, eventsOf, answerOf, emit_nil, State.storeClk]

/-- No command rewrites the trace: its registers leave it as it was. -/
@[simp] theorem registersAfter_trace (i : Instr) (s : State) : (registersAfter i s).trace = s.trace := by
  cases i <;> simp [registersAfter, convert_state]

@[simp] theorem registersAfter_responses (i : Instr) (s : State) :
    (registersAfter i s).responses = s.responses := by
  cases i <;> simp [registersAfter, convert_state]

@[simp] theorem registersAfter_pins (i : Instr) (s : State) : (registersAfter i s).pins = s.pins := by
  cases i <;> simp [registersAfter, convert_state]

@[simp] theorem registersAfter_inputs (i : Instr) (s : State) : (registersAfter i s).inputs = s.inputs := by
  cases i <;> simp [registersAfter, convert_state]

@[simp] theorem registersAfter_capabilitiesAnswer (i : Instr) (s : State) :
    (registersAfter i s).capabilitiesAnswer = s.capabilitiesAnswer := by
  cases i <;> simp [registersAfter, convert_state]

/-- No command but SETCLK writes `clk` (R33). -/
theorem registersAfter_clk {i : Instr} (h : ∀ k, i ≠ .setClk k) (s : State) : (registersAfter i s).clk = s.clk := by
  cases i <;> simp_all [registersAfter, convert_state]

/-- Every transaction a command opens carries the clock word it was given (R132, R172). -/
theorem clk_of_txnBegin {i : Instr} {s : State} {k : ClockWord} (h : .txnBegin k ∈ eventsOf i s) : k = s.clk := by
  revert h
  cases hc : s.pins.clrPresent <;> cases hi : s.initialized <;> cases i <;>
    simp [eventsOf, initEvents, updateEvents, clearEvents, teardownEvents, setupEvents, clearChipEvents, frameEvents,
      lineSetup, hc, hi]

/-- Everything a command can do: it is accepted, its events complete, and the state is `after`. -/
theorem exec_next_iff (i : Instr) (s t : State) :
    exec i s = .next t ↔
      Accepts s ∧ (s.capabilitiesAnswer || (eventsOf i s).isEmpty) = true ∧ t = after i s := by
  rw [exec_eq_accept, accept_next_iff, capabilitiesComplete_emitted (es := eventsOf i s) (by simp)]
  constructor
  · rintro ⟨h1, h2, h3, h4⟩; exact ⟨⟨h1, h2⟩, h3, h4⟩
  · rintro ⟨⟨h1, h2⟩, h3, h4⟩; exact ⟨h1, h2, h3, h4⟩

theorem exec_of_ready {s : State} (h : Ready s) (i : Instr) : exec i s = .next (after i s) :=
  (exec_next_iff i s _).2 ⟨h.accepts, by simp [h.capabilities], rfl⟩

theorem exec_of_silent {s : State} {i : Instr} (h : Accepts s) (hs : eventsOf i s = []) :
    exec i s = .next (after i s) :=
  (exec_next_iff i s _).2 ⟨h, by simp [hs], rfl⟩

/-- Everything a step can do: wait, run a command, take a reserved word, restart, or change the environment. -/
theorem step_next_cases {s t : State} (h : step s = .next t) :
    (s.inputs = [] ∧ s.pins.valid = true ∧ t = s) ∨
    (∃ w rest i, s.inputs = .command w :: rest ∧ decode w = .instr i ∧
      exec i { s with inputs := rest } = .next t) ∨
    (∃ w rest why, s.inputs = .command w :: rest ∧ decode w = .reserved why ∧ Accepts s ∧
      t = { s with inputs := rest, responses := s.responses ++ [0] }) ∨
    (∃ pins rest, s.inputs = .reset pins :: rest ∧ pins.valid = true ∧
      t = { State.resetWith pins Config.clkReset with
            capabilitiesAnswer := s.capabilitiesAnswer, inputs := rest, draws := s.draws }) ∨
    (∃ answer rest, s.inputs = .capabilities answer :: rest ∧
      t = { s with inputs := rest, capabilitiesAnswer := answer }) := by
  unfold step at h
  split at h
  next hin =>
    left
    cases hv : s.pins.valid <;> simp [State.idle, hv] at h
    exact ⟨hin, rfl, h.symm⟩
  next w rest hin =>
    right
    cases hd : decode w with
    | instr i => exact .inl ⟨w, rest, i, hin, hd, by simpa [hd, runDecoded] using h⟩
    | reserved why =>
      simp only [hd, runDecoded, execReserved] at h
      obtain ⟨h1, h2, -, h4⟩ := accept_next_iff.1 h
      exact .inr (.inl ⟨w, rest, why, hin, hd, ⟨h1, h2⟩, by simpa [State.respond] using h4⟩)
  next pins rest hin =>
    cases hv : pins.valid <;> simp [State.assertReset, hv] at h
    exact .inr (.inr (.inr (.inl ⟨pins, rest, hin, hv, h.symm⟩)))
  next answer rest hin =>
    simp only [State.setCapabilities, Host.Outcome.next.injEq] at h
    exact .inr (.inr (.inr (.inr ⟨answer, rest, hin, h.symm⟩)))

end Sys2Proof.Machine
end

