-- ==== Sys2Proof/Laws/Observe.lean ====
section
/-! SUPPORT. The scans of a trace, one appended list at a time, and what one frame does to each. -/

namespace Sys2Proof.Machine

@[simp] theorem busScan_some (cs : PinId) (ph : BusPhase) (e : Event) : busScan cs (some ph) e = ph.next cs e := rfl

@[simp] theorem lineScan_some (p : PinId) (st : LineState) (e : Event) : lineScan p (some st) e = st.next p e := rfl

theorem busPhase_append (cs : PinId) (es fs : List Event) :
    busPhase cs (es ++ fs) = fs.foldl (busScan cs) (busPhase cs es) := by simp [busPhase]

theorem lineState_append (p : PinId) (es fs : List Event) :
    lineState p (es ++ fs) = fs.foldl (lineScan p) (lineState p es) := by simp [lineState]

theorem lineLevel_append (p : PinId) (es fs : List Event) :
    lineLevel p (es ++ fs) = fs.foldl (levelScan p) (lineLevel p es) := by simp [lineLevel]

theorem chipScan_append (pins : PinConfig) (es fs : List Event) :
    chipScan pins (es ++ fs) = fs.foldl (ChipView.next pins) (chipScan pins es) := by simp [chipScan]

/-- A whole frame takes a held bus back to held (R62, R64). -/
theorem frame_keeps_held (cs : PinId) (clk : ClockWord) (frame : Byte × Byte × Byte) :
    (frameEvents cs clk frame).foldl (busScan cs) (some .held) = some .held := by
  simp [frameEvents, BusPhase.next, heldNext, txnNext]

/-- A frame leaves chip-select HIGH (R35). -/
theorem frame_drives_high (cs : PinId) (clk : ClockWord) (frame : Byte × Byte × Byte) (l : Level) :
    (frameEvents cs clk frame).foldl (lineScan cs) (some (.driven l)) = some (.driven .high) := by
  simp [frameEvents, LineState.next]

/-- A frame touches no line but chip-select. -/
theorem frame_keeps_line {p cs : PinId} (h : cs ≠ p) (clk : ClockWord) (frame : Byte × Byte × Byte) (st : LineState) :
    (frameEvents cs clk frame).foldl (lineScan p) (some st) = some st := by
  simp [frameEvents, LineState.next, h]

/-- A driven line's level is its last one (R35). -/
theorem lineLevel_of_driven {p : PinId} {es : List Event} {l : Level} (h : lineState p es = some (.driven l)) :
    lineLevel p es = some l := by
  suffices hs : ∀ es : List Event, ∀ st, lineState p es = some st →
      (st = .unconfigured ∨ st = .output → lineLevel p es = none) ∧ (∀ l, st = .driven l → lineLevel p es = some l) from
    (hs es _ h).2 l rfl
  intro es
  induction es using List.reverseRecOn with
  | nil => intro st h; simp [lineState] at h; subst h; simp [lineLevel]
  | append_singleton es e ih =>
    intro st h
    rw [lineState_append] at h
    rw [lineLevel_append]
    simp only [List.foldl_cons, List.foldl_nil] at h ⊢
    cases hes : lineState p es with
    | none => simp [hes, lineScan] at h
    | some st0 =>
      have h0 := ih st0 hes
      rw [hes, lineScan_some] at h
      cases e <;> simp only [LineState.next, levelScan] at h ⊢
      case pinMode q =>
        split at h <;> simp only [Option.some.injEq] at h
        · subst h; cases st0 <;> simp_all
        · subst h; exact h0
      case pinLevel q l =>
        split at h
        · split at h <;> simp only [Option.some.injEq, reduceCtorEq] at h
          subst h; simp_all
        · simp only [Option.some.injEq] at h; subst h; simp_all
      all_goals simp only [Option.some.injEq] at h; subst h; exact h0

/-- The chip takes the frame's codes at the end of it (R37), whatever was shifted before. -/
theorem frame_latches (pins : PinConfig) (clk : ClockWord) (frame : Byte × Byte × Byte) (v : ChipView) :
    (frameEvents pins.csPin clk frame).foldl (ChipView.next pins) v =
      { shifted := none, codes := some (unpack frame.1 frame.2.1 frame.2.2) } := by
  simp [frameEvents, ChipView.next, ChipView.latch]

/-- With a clear line the two lines differ (R7). -/
theorem clrPin_ne_csPin {p : PinConfig} (h : p.valid = true) (hc : p.clrPresent = true) : p.clrPin ≠ p.csPin := by
  simpa [PinConfig.valid, hc] using h

end Sys2Proof.Machine
end

