-- ==== Sys2Proof/Laws/PerInstr.lean ====
section
/-! SUPPORT. For every command: its encoding carries its opcode (30_encoding.md R83) and nothing in the fields its
format does not use (R86). -/

namespace Sys2Proof.Laws.OpcodeField

/-- The word's `op` field is the command's opcode, and every bit outside the format's fields is 0. -/
def Statement (i : Instr) : Prop :=
  opField (encode i) = i.opcode ∧ encode i &&& ~~~usedBits i.opcode = 0

/-- A word put together from fields, masked by another, is put together from the masked fields. -/
theorem commandWord_and_not (op op' : BitVec 4) (sel sel' : BitVec 2) (aux aux' : BitVec 8) (imm imm' : BitVec 32) :
    commandWord op sel aux imm &&& ~~~commandWord op' sel' aux' imm' =
      commandWord (op &&& ~~~op') (sel &&& ~~~sel') (aux &&& ~~~aux') (imm &&& ~~~imm') := by
  apply BitVec.eq_of_getLsbD_eq; intro i hi
  simp only [commandWord, BitVec.getLsbD_and, BitVec.getLsbD_not, BitVec.getLsbD_append, hi, decide_true, Bool.true_and]
  by_cases h1 : i < 32
  · simp [h1]
  by_cases h2 : i - 32 < 8
  · simp [h1, h2]
  by_cases h3 : i - 32 - 8 < 2
  · simp [h1, h2, h3]
  by_cases h4 : i - 32 - 8 - 2 < 2
  · simp [h1, h2, h3, h4]
  · simp [h1, h2, h3, h4, show i - 32 - 8 - 2 - 2 < 4 by omega]

/-- A word whose fields lie within another's leaves nothing outside them. -/
theorem outside_zero {op op' : BitVec 4} {sel sel' : BitVec 2} {aux aux' : BitVec 8} {imm imm' : BitVec 32}
    (h1 : op &&& ~~~op' = 0) (h2 : sel &&& ~~~sel' = 0) (h3 : aux &&& ~~~aux' = 0) (h4 : imm &&& ~~~imm' = 0) :
    commandWord op sel aux imm &&& ~~~commandWord op' sel' aux' imm' = 0 := by
  rw [commandWord_and_not, h1, h2, h3, h4]; rfl

theorem and_not_ones {n : Nat} (x : BitVec n) : x &&& ~~~BitVec.allOnes n = 0 := by simp

theorem selector_fits (s : Selector) : encodeSelector s &&& ~~~(3 : BitVec 2) = 0 := by cases s <;> decide

theorem channel_fits (c : Channel) : encodeChannel c &&& ~~~(3 : BitVec 2) = 0 := by cases c <;> decide

theorem init (V g : Int) : Statement (.init V g) :=
  ⟨opField_commandWord _ _ _ _, outside_zero (by decide) (by decide) (and_not_ones _) (and_not_ones _)⟩

theorem set (sel : Selector) (code : Int) : Statement (.set sel code) :=
  ⟨opField_commandWord _ _ _ _, outside_zero (by decide) (selector_fits sel) (by decide) (and_not_ones _)⟩

theorem get (ch : Channel) : Statement (.get ch) :=
  ⟨opField_commandWord _ _ _ _, outside_zero (by decide) (channel_fits ch) (by decide) (by decide)⟩

theorem update : Statement .update :=
  ⟨opField_commandWord _ _ _ _, outside_zero (by decide) (by decide) (by decide) (by decide)⟩

theorem clear : Statement .clear :=
  ⟨opField_commandWord _ _ _ _, outside_zero (by decide) (by decide) (by decide) (by decide)⟩

theorem toVolt (code : Int) : Statement (.toVolt code) :=
  ⟨opField_commandWord _ _ _ _, outside_zero (by decide) (by decide) (by decide) (and_not_ones _)⟩

theorem toCode (V : Int) : Statement (.toCode V) :=
  ⟨opField_commandWord _ _ _ _, outside_zero (by decide) (by decide) (by decide) (and_not_ones _)⟩

theorem setV (sel : Selector) (V : Int) : Statement (.setV sel V) :=
  ⟨opField_commandWord _ _ _ _, outside_zero (by decide) (selector_fits sel) (by decide) (and_not_ones _)⟩

theorem setVref (V : Int) : Statement (.setVref V) :=
  ⟨opField_commandWord _ _ _ _, outside_zero (by decide) (by decide) (by decide) (and_not_ones _)⟩

theorem setGain (g : Int) : Statement (.setGain g) :=
  ⟨opField_commandWord _ _ _ _, outside_zero (by decide) (by decide) (and_not_ones _) (by decide)⟩

theorem setClk (k : ClockWord) : Statement (.setClk k) :=
  ⟨opField_commandWord _ _ _ _, outside_zero (by decide) (by decide) (by decide) (and_not_ones _)⟩

theorem teardown : Statement .teardown :=
  ⟨opField_commandWord _ _ _ _, outside_zero (by decide) (by decide) (by decide) (by decide)⟩

end Sys2Proof.Laws.OpcodeField
end

