-- ==== Sys2Proof/Tests/Slice0.lean ====
section
/-! SUPPORT. The model's own tests. Every expected value is the spec's: its worked encodings (30_encoding.md R91), its
vectors and programs (95_test_vectors.md), or the rule named. Then, for each obligation with hypotheses, a state and
operands that meet them together. -/

namespace Sys2Proof.Tests

open Sys2Proof.Machine

/-! ## Well-formedness: an ill-formed term for each check (R82) -/

theorem test_wf_init_voltage_high : (Instr.init 2147483648 1).wellFormed = false := by decide
theorem test_wf_init_voltage_low : (Instr.init (-2147483649) 1).wellFormed = false := by decide
theorem test_wf_init_gain_high : (Instr.init 0 128).wellFormed = false := by decide
theorem test_wf_init_gain_low : (Instr.init 0 (-129)).wellFormed = false := by decide
theorem test_wf_set_code : (Instr.set .both 2147483648).wellFormed = false := by decide
theorem test_wf_toVolt_code : (Instr.toVolt (-2147483649)).wellFormed = false := by decide
theorem test_wf_toCode_voltage : (Instr.toCode 2147483648).wellFormed = false := by decide
theorem test_wf_setV_voltage : (Instr.setV .a (-2147483649)).wellFormed = false := by decide
theorem test_wf_setVref_voltage : (Instr.setVref 2147483648).wellFormed = false := by decide
theorem test_wf_setGain_gain : (Instr.setGain 128).wellFormed = false := by decide
theorem test_wf_bounds_admitted :
    (Instr.init (-2147483648) (-128)).wellFormed = true ∧ (Instr.init 2147483647 127).wellFormed = true := by decide

/-! ## Decoding: a word written out from the encoding of each command (R80, R83; op, sel, z, aux, imm) -/

theorem test_decode_init : decode 0b0001_00_00_11111111_11111111111111111111111111111111 = .instr (.init (-1) (-1)) := by
  decide
theorem test_decode_set : decode 0b0010_01_00_00000000_00000000000000000000111111111111 = .instr (.set .a 4095) := by
  decide
theorem test_decode_get : decode 0b0011_10_00_00000000_00000000000000000000000000000000 = .instr (.get .b) := by decide
theorem test_decode_update : decode 0b0100_00_11_11111111_00010010001101000101011001111000 = .instr .update := by decide
theorem test_decode_clear : decode 0b0101_11_11_11111111_11111111111111111111111111111111 = .instr .clear := by decide
theorem test_decode_toVolt : decode 0b0110_00_00_00000000_00000000000000000000100000000000 = .instr (.toVolt 2048) := by
  decide
theorem test_decode_toCode : decode 0b0111_00_00_00000000_11111111111111111111101000100100 = .instr (.toCode (-1500)) := by
  decide
theorem test_decode_setV : decode 0b1000_11_00_00000000_00000000000011110100001001000000 =
    .instr (.setV .both 1000000) := by decide
theorem test_decode_setVref : decode 0b1001_00_00_00000000_00000000001011011100011011000000 =
    .instr (.setVref 3000000) := by decide
theorem test_decode_setGain : decode 0b1010_11_00_00000001_11011110101011011011111011101111 = .instr (.setGain 1) := by
  decide
theorem test_decode_setClk : decode 0b1011_00_00_00000000_11011110101011011011111011101111 =
    .instr (.setClk 0xDEADBEEF) := by decide
theorem test_decode_teardown : decode 0b1100_00_00_00000000_00000000000000000000000000000000 = .instr .teardown := by
  decide

/-- 95_test_vectors.md 2.1: reserved words. -/
theorem test_decode_reserved :
    decode nopWord = .reserved (.opcode 0) ∧ decode 0xFFFFFFFFFFFF = .reserved (.opcode 0xF) ∧
    decode 0x3C0000000000 = .reserved .notOneChannel ∧ decode 0x300000000000 = .reserved .notOneChannel ∧
    decode 0x200000000007 = .reserved .noChannel ∧ decode 0x800000000007 = .reserved .noChannel := by decide

/-- R90: the pseudo-instructions' words. -/
theorem test_encode_pseudo :
    encode .initd = 0x1002001F4000 ∧ encode (.setAll 5000) = 0x2C0000001388 := by decide

/-- R89, R91: the assembler's text. -/
theorem test_asm :
    Instr.initd.asm = "INIT 2048000, 2" ∧ (Instr.set .both 5000).asm = "SET AB, 5000" ∧
    (Instr.toCode (-1500)).asm = "TOCODE -1500" := ⟨rfl, rfl, rfl⟩

/-- The table's first and last rows, as the first command after reset. -/
theorem test_table_word : decodeTableWord 48 0x100000000000 = some (.init 0 0) ∧
    decodeTableWord 48 0xC00000000000 = some .teardown := by decide

/-! ## States for the tests -/

/-- Right after reset with `CS_PIN = 5`, `CLR_PIN = 6`, a clear line or none, and `CLK_RESET` = 1 000 000. -/
def fresh (clr : Bool) : State := State.resetWith { csPin := 5, clrPresent := clr, clrPin := 6 } 1000000

/-- The same block acquired and its lines set up, with codes to lose (programs P2, P3). -/
def live (clr : Bool) : State :=
  { fresh clr with
    initialized := true
    chA := 0xABC
    chB := 0xDEF
    trace := [.busBegin, .pinMode 5, .pinLevel 5 .high] ++ if clr then [.pinMode 6, .pinLevel 6 .high] else [] }

/-- The same with `vref = 0`, where the conversion to a code is free (R154). -/
def zeroRef : State := { live false with vref := 0 }

/-- What a command answers last, or nothing where it stops. -/
def lastAnswer (a : Answer) : Option Int :=
  match a with
  | .next t => t.responses.getLast?.map (·.toInt)
  | _ => none

/-- One reading of the next state. -/
def look {α : Type} (a : Answer) (f : State → α) : Option α :=
  match a with
  | .next t => some (f t)
  | _ => none

/-! ## One step each -/

/-- LC1. -/
theorem test_init_no_clear_line : look (exec (.init 2048000 2) (fresh false)) (·.trace) = some
    [.busBegin, .pinMode 5, .pinLevel 5 .high, .txnBegin 1000000, .pinLevel 5 .low, .transfer 0, .transfer 0,
     .transfer 0, .pinLevel 5 .high, .txnEnd] := by decide
/-- LC2, LC3. -/
theorem test_init_clear_line : look (exec (.init (-1) (-1)) (fresh true)) (fun t => (t.trace, t.vref, t.gain)) = some
    ([.busBegin, .pinMode 5, .pinLevel 5 .high, .pinMode 6, .pinLevel 6 .high, .pinLevel 6 .low, .delay 10,
      .pinLevel 6 .high], 0, 1) := by decide
/-- SG14. -/
theorem test_set_broadcast : look (exec (.set .both 5000) (fresh false)) (fun t => (t.chA, t.chB)) = some (4095, 4095) := by
  decide
/-- SG12 with another value in A. -/
theorem test_set_one : look (exec (.set .b (-3)) (live false)) (fun t => (t.chA, t.chB)) = some (0xABC, 0) := by decide
/-- P3. -/
theorem test_get : lastAnswer (exec (.get .b) (live false)) = some 3567 := by decide
/-- UP3. -/
theorem test_update : look (exec .update (live false)) (·.trace.drop 3) = some
    [.txnBegin 1000000, .pinLevel 5 .low, .transfer 0xAB, .transfer 0xCD, .transfer 0xEF, .pinLevel 5 .high, .txnEnd] := by
  decide
/-- UP2. -/
theorem test_update_silent : look (exec .update (fresh false)) (·.trace) = some [] := by decide
/-- CL4. -/
theorem test_clear_pulse : look (exec .clear (live true)) (fun t => (t.chA, t.chB, t.trace.drop 5)) = some
    (0, 0, [.pinLevel 6 .low, .delay 10, .pinLevel 6 .high]) := by decide
/-- CL5. -/
theorem test_clear_electrical : look (exec .clear (live false)) (·.trace.drop 3) = some
    [.txnBegin 1000000, .pinLevel 5 .low, .transfer 0, .transfer 0, .transfer 0, .pinLevel 5 .high, .txnEnd] := by decide
/-- 2.6, the source's half scale. -/
theorem test_toVolt : lastAnswer (exec (.toVolt 2048) (fresh false)) = some 8388608000 := by decide
/-- 2.6, a negative code. -/
theorem test_toVolt_negative : lastAnswer (exec (.toVolt (-1)) (fresh false)) = some (-4096000) := by decide
/-- 2.7, an exact half rounds up. -/
theorem test_toCode_half : lastAnswer (exec (.toCode 1500) (fresh false)) = some 2 := by decide
/-- 2.7, truncation toward zero: `q = -2` gives -1. -/
theorem test_toCode_negative : lastAnswer (exec (.toCode (-2000)) (fresh false)) = some (-1) := by decide
/-- P2 step 3. -/
theorem test_setV : look (exec (.setV .both 1000000) { fresh true with vref := 2700000, gain := 1 })
    (fun t => (t.chA, t.chB)) = some (1517, 1517) := by decide
/-- R154: with `vref = 0` the other register and the trace are untouched. -/
theorem test_setV_zero_reference : look (exec (.setV .b 1000000) zeroRef) (fun t => (t.chA, t.trace.length)) =
    some (0xABC, 3) := by decide
/-- PS2. -/
theorem test_setVref : look (exec (.setVref 2700001) (fresh false)) (·.vref) = some 2700000 := by decide
/-- PS16. -/
theorem test_setGain : look (exec (.setGain (-128)) (fresh false)) (·.gain) = some 1 := by decide
/-- PS19. -/
theorem test_setClk : look (exec (.setClk 0xFFFFFFFF) (fresh false)) (·.clk) = some 0xFFFFFFFF := by decide
/-- LC8, LC9. -/
theorem test_teardown : look (exec .teardown (live false)) (fun t => (t.trace.drop 3, t.initialized, t.destroyed)) =
    some ([.busEnd], true, true) := by decide
/-- LC7. -/
theorem test_teardown_silent : look (exec .teardown (fresh true)) (fun t => (t.trace, t.destroyed)) = some ([], true) := by
  decide

/-- `INITD` as the first command after reset: it is fetched, decoded and run. -/
theorem test_step_from_reset :
    look (step (State.reset.withFetchWord 48 0x1002001F4000)) (fun t => (t.initialized, t.trace.length)) =
      some (true, 10) := by decide
/-- P6, P4: reset restarts a destroyed block; a reserved word answers 0. -/
theorem test_step_reset_and_reserved :
    look (step { live true with destroyed := true, inputs := [.reset Config.scenarioPins] })
      (fun t => (t.destroyed, t.initialized, t.trace)) = some (false, false, []) ∧
    lastAnswer (step { fresh true with inputs := [.command 0x3C0000000000] }) = some 0 := by decide

/-- 2.4, the encoded stream of UP6. -/
theorem test_event_stream :
    eventStream (frameEvents 5 1000000 (pack 1000 1000)) =
      [(3, 0x000F4240), (7, 0x00000005), (4, 0x3E), (4, 0x83), (4, 0xE8), (7, 0x00000105), (5, 0)] := by decide
/-- 2.4, the packer's vectors; R134, the bits of (0xABC, 0xDEF); R37, the chip view of P1. -/
theorem test_frames :
    pack 0x00F 0xF00 = (0x00, 0xFF, 0x00) ∧ pack 1 1 = (0x00, 0x10, 0x01) ∧ unpack 0x12 0x34 0x56 = (0x123, 0x456) ∧
    wireBits (frameEvents 5 0 (pack 0xABC 0xDEF)) = bitsMsb (0xABCDEF : BitVec 24) ∧
    chipView (fresh false).pins (frameEvents 5 0 (pack 4095 0)) = some (4095, 0) := by decide
/-- R56: the fixed part of a transaction's configuration. -/
theorem test_busConfig : (busConfig 7).bitOrder = .msbFirst ∧ (busConfig 7).mode = 0 := by decide

/-! ## The hypotheses of the obligations can be met -/

theorem live_ready (clr : Bool) : Ready (live clr) := by cases clr <;> constructor <;> decide
theorem live_accepts (clr : Bool) : Accepts (live clr) := by cases clr <;> constructor <;> decide
theorem fresh_ready (clr : Bool) : Ready (fresh clr) := by cases clr <;> constructor <;> decide
theorem fresh_accepts (clr : Bool) : Accepts (fresh clr) := by cases clr <;> constructor <;> decide
theorem zeroRef_accepts : Accepts zeroRef := by constructor <;> decide
theorem live_inv (clr : Bool) : BlockInv (live clr) := by cases clr <;> constructor <;> decide

/-- A destroyed block. -/
def gone : State := { live true with destroyed := true }
/-- A block whose straps name one line twice. -/
def twisted : State := State.resetWith { csPin := 5, clrPresent := true, clrPin := 5 } 0

theorem witness_DecodeInvertsEncode : (Instr.init (-2147483648) 127).wellFormed = true := by decide
theorem witness_EncodeInvertsDecodeOnUsedFields : decode 0x37FFFFFFFFFF = .instr (.get .a) := by decide
theorem witness_UnusedFieldsAreIgnored :
    (0xAC01DEADBEEF : CommandWord) &&& usedBits (opField 0xAC01DEADBEEF) =
      0xA00100000000 &&& usedBits (opField 0xAC01DEADBEEF) := by decide
theorem witness_ReservedWordsAreNoOps :
    Accepts { live true with inputs := [.command 0xD00000000000] } ∧
      decode 0xD00000000000 = .reserved (.opcode 0xD) := by
  refine ⟨⟨by decide, by decide⟩, by decide⟩
theorem witness_StepRunsDecodedCommand :
    ({ live true with inputs := [.command 0x500000000000] } : State).inputs = .command 0x500000000000 :: [] ∧
      decode 0x500000000000 = .instr .clear ∧ decodeTableWord 48 0x500000000000 = some .clear := by decide
theorem witness_EventStreamEncoding :
    Event.busEnd.encoded = some (2, 0) ∧ (Event.pinLevel 255 .high).encoded = some (7, 0x1FF) := by decide
theorem witness_InitAcquiresSetsUpAndClears : Ready (fresh false) ∧ Ready (live true) := ⟨fresh_ready _, live_ready _⟩
theorem witness_SecondInitDoesNotReacquire :
    Ready (live true) ∧ BlockInv (live true) ∧ (live true).initialized = true ∧ (live true).pins.clrPresent = true :=
  ⟨live_ready _, live_inv _, by decide, by decide⟩
theorem witness_InitStoresAsTheSetters : Ready (live false) := live_ready _
theorem witness_TeardownReleasesBusOnce :
    Accepts (live false) ∧ ((live false).initialized = true → (live false).capabilitiesAnswer = true) :=
  ⟨live_accepts _, by decide⟩
theorem witness_DestroyedBlockAcceptsNothing :
    gone.pins.valid = true ∧ gone.destroyed = true ∧ Config.scenarioPins.valid = true := by decide
theorem witness_OnlyInitEmitsBeforeInit :
    (fresh true).initialized = false ∧ ∃ t, exec .clear (fresh true) = .next t := ⟨by decide, _, rfl⟩
theorem witness_FlagsChangeOnlyByInitAndTeardown : ∃ t, exec .teardown (live true) = .next t := ⟨_, rfl⟩
theorem witness_SetStoresClampedCode : Accepts (live false) := live_accepts _
theorem witness_GetAnswersRegister : Accepts (live true) := live_accepts _
theorem witness_SetThenGetClamps :
    Accepts (live false) ∧ Selector.both.covers .b = true ∧ Selector.a.covers .a = true := ⟨live_accepts _, by decide⟩
theorem witness_SetClampsBeforeWrite : (0 : Int) ≤ 0 := by decide
theorem witness_UpdateSendsOneFrame :
    Accepts (live false) ∧ ((live false).initialized = true → (live false).capabilitiesAnswer = true) :=
  ⟨live_accepts _, by decide⟩
theorem witness_UpdateShiftsCodesMsbFirst : Ready (live false) ∧ (live false).initialized = true :=
  ⟨live_ready _, by decide⟩
theorem witness_ClearBeforeInitOnlyZeroes : Accepts (fresh true) ∧ (fresh true).initialized = false :=
  ⟨fresh_accepts _, by decide⟩
theorem witness_ClearPulsesClearLine :
    Ready (live true) ∧ (live true).initialized = true ∧ (live true).pins.clrPresent = true ∧ BlockInv (live true) :=
  ⟨live_ready _, by decide, by decide, live_inv _⟩
theorem witness_ClearSendsZeroFrame :
    Ready (live false) ∧ (live false).initialized = true ∧ (live false).pins.clrPresent = false :=
  ⟨live_ready _, by decide, by decide⟩
theorem witness_ToVoltAnswersProduct :
    Accepts (live false) ∧ (Instr.toVolt (-2147483648)).wellFormed = true ∧ (Instr.toVolt 2147483647).wellFormed = true :=
  ⟨live_accepts _, by decide⟩
theorem witness_ToCodeRoundsHalfUp :
    Accepts (live false) ∧ (Instr.toCode 2147483647).wellFormed = true ∧
      ((live false).vref.toNat * (live false).gain.toNat : Int) ≠ 0 := ⟨live_accepts _, by decide⟩
/-- The rows of R153 at their edges, at the defaults (`D = 4096000`): 499, 500, -500, -501, -1499, -1500. -/
theorem witness_ToCodeRoundingTable :
    Accepts (live false) ∧ (Instr.toCode (-1500)).wellFormed = true ∧
      ((live false).vref.toNat * (live false).gain.toNat : Int) = 4096000 ∧
      (2 * 0 * 4096000 ≤ 8192 * (499 : Int) ∧ 8192 * (499 : Int) < (2 * 0 + 1) * 4096000) ∧
      ((2 * 0 + 1) * 4096000 ≤ 8192 * (500 : Int) ∧ 8192 * (500 : Int) < (2 * 0 + 2) * 4096000) ∧
      (-4096000 ≤ 8192 * (-500 : Int) ∧ (-500 : Int) < 0) ∧
      (-3 * 4096000 < 8192 * (-501 : Int) ∧ 8192 * (-501 : Int) < -4096000) ∧
      (-3 * 4096000 < 8192 * (-1499 : Int) ∧ 8192 * (-1499 : Int) < -4096000) ∧
      (-(2 * 1 + 3) * 4096000 < 8192 * (-1500 : Int) ∧ 8192 * (-1500 : Int) ≤ -(2 * 1 + 1) * 4096000) :=
  ⟨live_accepts _, by decide⟩
theorem witness_ZeroReferenceCompletes :
    Accepts zeroRef ∧ zeroRef.gain = 2 ∧ zeroRef.vref.toNat * zeroRef.gain.toNat = 0 := ⟨zeroRef_accepts, by decide⟩
theorem witness_SetVStoresConvertedVoltage :
    Accepts (live true) ∧ ((live true).vref.toNat * (live true).gain.toNat : Int) ≠ 0 := ⟨live_accepts _, by decide⟩
/-- Both clauses at the largest code of the source's law: `N / 4096` whole at the defaults, and its floor at 2.7 V,
gain 1. -/
theorem witness_ConversionRoundTrip :
    Accepts (live false) ∧ (Instr.toVolt 4095).wellFormed = true ∧ (Instr.toCode 4095000).wellFormed = true ∧
      (4095 * 4096000 : Int) = 4096 * 4095000 ∧
      Accepts { live false with vref := 2700000, gain := 1 } ∧ (8192 : Int) ≤ 2700000 * 1 ∧
      (2699340 : Int) = 4095 * 2700000 / 4096 := by
  refine ⟨live_accepts _, by decide, by decide, by decide, ⟨by decide, by decide⟩, by decide, by decide⟩
theorem witness_ConversionMonotone :
    Accepts (live false) ∧ (0 : Int) < (live false).vref.toNat * (live false).gain.toNat ∧
      (Instr.toCode (-2147483648)).wellFormed = true ∧ (Instr.toCode 2147483647).wellFormed = true ∧
      (Instr.toVolt (-2147483648)).wellFormed = true ∧ (Instr.toVolt 2147483647).wellFormed = true ∧
      8192 * (499 : Int) < (live false).vref.toNat * (live false).gain.toNat := ⟨live_accepts _, by decide⟩
/-- The three extreme cases of R158. -/
theorem witness_ConversionsFitTheResponse :
    Accepts { live false with vref := 2700000 } ∧ fitsImm (-2147483648) = true ∧ (live false).gain = 2 ∧
      Accepts { live false with vref := 1, gain := 1 } ∧ fitsImm 2147483647 = true := by
  refine ⟨⟨by decide, by decide⟩, by decide, by decide, ⟨by decide, by decide⟩, by decide⟩
/-- The clauses at their edges: -1, 2700001, 0 and 2700000. -/
theorem witness_SetVrefStoresClamped :
    Accepts (live false) ∧ (-1 : Int) < 0 ∧ (2700000 : Int) < 2700001 ∧ (0 : Int) ≤ 0 ∧ (2700000 : Int) ≤ 2700000 :=
  ⟨live_accepts _, by decide⟩
theorem witness_SetGainStoresClamped : Accepts (live false) ∧ (1 : Int) ≤ 1 ∧ (2 : Int) ≤ 2 := ⟨live_accepts _, by decide⟩
/-- R172: SET and UPDATE after SETCLK, the state the run reaches; UPDATE, CLEAR and INIT then each open a transaction. -/
theorem witness_SetClkStoresWordForLaterFrames :
    let s : State := { live false with inputs := [.command 0x240000000FFF, .command 0x400000000000] }
    Accepts s ∧ (∀ p, .reset p ∉ s.inputs.take 2) ∧
      (∀ w j, .command w ∈ s.inputs.take 2 → decode w ≠ .instr (.setClk j)) ∧
      ∃ u, Host.Core.run Sys2Proof.core 2 { s with clk := 7, responses := s.responses ++ [0] } = .next u ∧
        Ready u ∧ u.initialized = true ∧ u.pins.clrPresent = false ∧
        u.trace.drop s.trace.length = frameEvents 5 7 (pack 4095 0xDEF) := by
  refine ⟨⟨rfl, rfl⟩, by simp, ?_, _, rfl, ⟨by decide, by decide, by decide⟩, by decide, by decide, by decide⟩
  intro w j hw
  simp only [List.take_succ_cons, List.take_zero, List.mem_cons, List.not_mem_nil, or_false, Input.command.injEq] at hw
  have hset : decode 0x240000000FFF = .instr (.set .a 4095) := by decide
  have hupd : decode 0x400000000000 = .instr .update := by decide
  rcases hw with rfl | rfl <;> intro h
  · cases hset.symm.trans h
  · cases hupd.symm.trans h
theorem witness_ResetRestartsTheBlock :
    ({ gone with inputs := [.reset Config.scenarioPins] } : State).inputs = .reset Config.scenarioPins :: [] ∧
      Config.scenarioPins.valid = true ∧ twisted.pins.valid = false := by decide
theorem witness_InvariantHoldsAtReset : (fresh true).pins.valid = true := by decide
theorem witness_EveryStepKeepsInvariant :
    BlockInv (live true) ∧ ∃ t, step (live true) = .next t := ⟨live_inv _, _, rfl⟩
theorem witness_RegistersInRangeAndBusAcquiredOnce :
    BlockInv (live true) ∧ (∃ t, step (live true) = .next t) ∧ ∀ p rest, (live true).inputs ≠ .reset p :: rest :=
  ⟨live_inv _, ⟨_, rfl⟩, fun _ _ => by simp [live, fresh]⟩
theorem witness_FramesAreWhole :
    let s : State := { live false with trace := (live false).trace ++ frameEvents 5 7 (pack 1 2) }
    BlockInv s ∧ ∃ later, s.trace = (live false).trace ++ .txnBegin 7 :: later := by
  refine ⟨?_, _, rfl⟩
  constructor <;> decide
theorem witness_LinesIdleHighBetweenCommands :
    BlockInv (live true) ∧ (live true).initialized = true ∧ (live true).pins.clrPresent = true ∧
      (fresh true).initialized = false := ⟨live_inv _, by decide⟩
theorem witness_EveryCommandCompletes : Ready (live true) := live_ready _
theorem witness_RunOfCommandsCompletes :
    let ws : List CommandWord := [0xC00000000000]
    Ready { live true with inputs := ws.map .command } ∧ BlockInv { live true with inputs := ws.map .command } ∧
      ∀ before w later, ws = before ++ w :: later → later ≠ [] → decode w ≠ .instr .teardown := by
  refine ⟨⟨by decide, by decide, by decide⟩, ?_, ?_⟩
  · constructor <;> decide
  · intro before w later h hne
    rcases before with _ | ⟨b, before⟩
    · simp only [List.nil_append, List.cons.injEq] at h; exact absurd h.2.symm hne
    · simp at h
theorem witness_StuckOnlyOnPendingEvents :
    Accepts { live true with capabilitiesAnswer := false } ∧
      exec .update { live true with capabilitiesAnswer := false } = .fault .capabilityStuck :=
  ⟨⟨by decide, by decide⟩, rfl⟩
theorem witness_InvalidConfigurationRefused :
    twisted.pins.clrPresent = true ∧ twisted.pins.clrPin = twisted.pins.csPin := by decide
theorem witness_ConfigurationIsConstant :
    (∃ t, exec .clear (live true) = .next t) ∧ ∃ t, step (live true) = .next t := ⟨⟨_, rfl⟩, _, rfl⟩
theorem witness_CommandsWriteOnlyTheirState : ∃ t, exec (.setV .a 0) (live true) = .next t := ⟨_, rfl⟩
theorem witness_OneAnswerPerCommand :
    (Instr.toCode 500).wellFormed = true ∧ (∃ t, exec (.toCode 500) (live true) = .next t) ∧
      (live true).vref.toNat * (live true).gain.toNat ≠ 0 ∧
      ∃ t, step { live true with inputs := [.command 0] } = .next t := ⟨by decide, ⟨_, rfl⟩, by decide, _, rfl⟩
theorem witness_EventsDoNotDependOnParameters :
    ∃ t t', exec .update (live true) = .next t ∧ exec .update { live true with vref := 5, gain := 1 } = .next t' :=
  ⟨_, _, rfl, rfl⟩
theorem witness_RegistersDoNotDependOnLifecycle :
    ∃ t t', exec (.setV .a 500) (live true) = .next t ∧
      exec (.setV .a 500) { live true with initialized := false, clk := 9, trace := [] } = .next t' := ⟨_, _, rfl, rfl⟩
theorem witness_ChipViewFollowsRegisters :
    BlockInv (live true) ∧ (live true).initialized = true ∧ (∃ t, exec .update (live true) = .next t) ∧
      ∃ t, exec .clear (live true) = .next t := ⟨live_inv _, by decide, ⟨_, rfl⟩, _, rfl⟩
theorem witness_SetReachesChipOnlyWithUpdate :
    Ready (live false) ∧ BlockInv (live false) ∧ (live false).initialized = true := ⟨live_ready _, live_inv _, by decide⟩
theorem witness_OnlyTheClearPulseWaits :
    look (exec .clear (live true)) (fun t => decide (Event.delay 10 ∈ t.trace.drop (live true).trace.length)) =
      some true := by decide
theorem witness_IdleBlockKeepsItsState : (fresh true).inputs = [] ∧ (fresh true).pins.valid = true := by decide

end Sys2Proof.Tests
end

/-! PROOFS. The family of 00_scope.md: a command on the inputs (R14, R52), the configuration (R7, R29), and runs of
commands (R180, R227). The part about `Idle` says why every command keeps the invariant of R32. -/

namespace Sys2Proof.Machine

/-! ## A command on the inputs -/

theorem step_of_command {s : State} {w : CommandWord} {rest : List Input} (h : s.inputs = .command w :: rest) :
    step s = runDecoded exec (decode w) { s with inputs := rest } := by
  simp only [step, h]

theorem decode_of_decodeTableWord {nbits w : Nat} {i : Instr} (h : decodeTableWord nbits w = some i) :
    decode (BitVec.ofNat 48 (w % 2 ^ nbits)) = .instr i := by
  unfold decodeTableWord at h
  split at h
  next j hj => rw [hj, Option.some.inj h]
  next => cases h

/-- Settles O6: the command is the head of the inputs, and `withFetchWord` puts it there. -/
theorem stepRunsDecodedCommand : Obligations.StepRunsDecodedCommand := by
  constructor
  · intro s w rest i hin hdec
    rw [step_of_command hin, hdec]; rfl
  · intro s w i htab
    have hin : (s.withFetchWord 48 w).inputs = .command (BitVec.ofNat 48 (w % 2 ^ 48)) :: s.inputs := rfl
    rw [step_of_command hin, decode_of_decodeTableWord htab]; rfl

/-! ## The configuration (R7) -/

/-- Settles O47: every command and every reserved word is one `accept`, which refuses such straps first. -/
theorem invalidConfigurationRefused : Obligations.InvalidConfigurationRefused := by
  intro s hpresent hpin
  have hinvalid : s.pins.valid = false := by simp [PinConfig.valid, hpresent, hpin]
  have hexec : ∀ (i : Instr) (u : State), u.pins = s.pins → exec i u = .refused .invalidConfiguration := by
    intro i u hu
    rw [exec_eq_accept, accept_invalid (by rw [hu, hinvalid])]
  refine ⟨fun i => hexec i s rfl, fun w rest hin => ?_⟩
  rw [step_of_command hin]
  cases decode w with
  | instr i => exact hexec i _ rfl
  | reserved why => rw [runDecoded, execReserved, accept_invalid (by exact hinvalid)]

/-! What the state after a command keeps of the one before -/

@[simp] theorem after_pins (i : Instr) (s : State) : (after i s).pins = s.pins := by simp [after]

@[simp] theorem after_inputs (i : Instr) (s : State) : (after i s).inputs = s.inputs := by simp [after]

@[simp] theorem after_capabilitiesAnswer (i : Instr) (s : State) :
    (after i s).capabilitiesAnswer = s.capabilitiesAnswer := by simp [after]

@[simp] theorem after_trace (i : Instr) (s : State) : (after i s).trace = s.trace ++ eventsOf i s := by simp [after]

@[simp] theorem after_responses (i : Instr) (s : State) :
    (after i s).responses = s.responses ++ [answerOf i s] := by simp [after]

theorem exec_keeps_pins {i : Instr} {s t : State} (h : exec i s = .next t) : t.pins = s.pins := by
  obtain ⟨-, -, rfl⟩ := (exec_next_iff i s t).1 h
  exact after_pins i s

/-- Settles O48, case by case of what a step can do; only the reset writes `pins`. -/
theorem configurationIsConstant : Obligations.ConfigurationIsConstant := by
  refine ⟨fun i s t => exec_keeps_pins, fun s t hstep hreset => ?_⟩
  obtain ⟨-, -, rfl⟩ | ⟨w, rest, i, -, -, hexec⟩ | ⟨w, rest, why, -, -, -, rfl⟩ |
    ⟨pins, rest, hin, -, -⟩ | ⟨answer, rest, -, rfl⟩ := step_next_cases hstep
  · rfl
  · exact (exec_keeps_pins hexec :)
  · rfl
  · exact absurd hin (hreset pins rest)
  · rfl

/-! ## Registers and flags after a command -/

theorem after_initialized_of_ne_init {i : Instr} (h : ∀ V g, i ≠ .init V g) (s : State) :
    (after i s).initialized = s.initialized := by
  cases i <;> simp_all [after, registersAfter, convert_state]

theorem after_init_initialized (V g : Int) (s : State) : (after (.init V g) s).initialized = true := by
  simp [after, registersAfter]

theorem after_destroyed_of_ne_teardown {i : Instr} (h : i ≠ .teardown) (s : State) :
    (after i s).destroyed = s.destroyed := by
  cases i <;> simp_all [after, registersAfter, convert_state]

theorem after_teardown_destroyed (s : State) : (after .teardown s).destroyed = true := by
  simp [after, registersAfter]

/-- `vref` is kept or stored through the clamp (R32 b). -/
theorem after_vref_range {s : State} (h : s.vref.toNat ≤ 2700000) (i : Instr) :
    (after i s).vref.toNat ≤ 2700000 := by
  have hclamp : ∀ V, (clampVref V).toNat ≤ 2700000 := fun V => by have := clampVref_toNat V; omega
  cases i <;> simp [after, registersAfter, convert_state, hclamp, h]

/-- `gain` is kept or stored through the clamp (R32 c). -/
theorem after_gain_legal {s : State} (h : s.gain = 1 ∨ s.gain = 2) (i : Instr) :
    (after i s).gain = 1 ∨ (after i s).gain = 2 := by
  cases i with
  | init V g => exact clampGain_legal g
  | setGain g => exact clampGain_legal g
  | _ => simpa [after, registersAfter, convert_state] using h

/-! ## The trace between two commands of a live block -/

/-- What a trace shows of an acquired, live block between commands: the bus held outside any transaction (R32 e), only
the configured lines touched (R57), both HIGH (R35). -/
structure Idle (pins : PinConfig) (trace : List Event) : Prop where
  bus : busPhase pins.csPin trace = some .held
  owned : ∀ e ∈ trace, ownedEvent pins e = true
  cs_high : lineState pins.csPin trace = some (.driven .high)
  clr_high : pins.clrPresent = true → lineState pins.clrPin trace = some (.driven .high)

theorem BlockInv.idle {s : State} (h : BlockInv s) (hinit : s.initialized = true) (halive : s.destroyed = false) :
    Idle s.pins s.trace where
  bus := by rw [h.bus]; simp [State.expectedPhase, hinit, halive]
  owned := h.owned
  cs_high := h.cs_high hinit
  clr_high := h.clr_high hinit

theorem BlockInv.of_idle {s : State} (h : Idle s.pins s.trace) (hvalid : s.pins.valid = true)
    (hvref : s.vref.toNat ≤ 2700000) (hgain : s.gain = 1 ∨ s.gain = 2) (hinit : s.initialized = true)
    (halive : s.destroyed = false) : BlockInv s where
  pins_valid := hvalid
  vref_range := hvref
  gain_legal := hgain
  silent := by simp [hinit]
  bus := by rw [h.bus]; simp [State.expectedPhase, hinit, halive]
  owned := h.owned
  cs_high _ := h.cs_high
  clr_high _ := h.clr_high

section
variable {pins : PinConfig} {trace : List Event}

theorem Idle.append_frame (h : Idle pins trace) (hvalid : pins.valid = true) (clk : ClockWord)
    (frame : Byte × Byte × Byte) : Idle pins (trace ++ frameEvents pins.csPin clk frame) where
  bus := by rw [busPhase_append, h.bus, frame_keeps_held]
  owned := by
    have hframe : ∀ e ∈ frameEvents pins.csPin clk frame, ownedEvent pins e = true := by
      simp [frameEvents, ownedEvent]
    exact List.forall_mem_append.2 ⟨h.owned, hframe⟩
  cs_high := by rw [lineState_append, h.cs_high, frame_drives_high]
  clr_high hclr := by
    rw [lineState_append, h.clr_high hclr, frame_keeps_line (clrPin_ne_csPin hvalid hclr).symm]

/-- The pulse ends HIGH (R141), and it is not on chip-select (R7). -/
theorem Idle.append_pulse (h : Idle pins trace) (hvalid : pins.valid = true) (hclr : pins.clrPresent = true)
    (n : Nat) : Idle pins (trace ++ [.pinLevel pins.clrPin .low, .delay n, .pinLevel pins.clrPin .high]) := by
  have hne := clrPin_ne_csPin hvalid hclr
  constructor
  · rw [busPhase_append, h.bus]; simp [BusPhase.next, heldNext, hne]
  · exact List.forall_mem_append.2 ⟨h.owned, by simp [ownedEvent, hclr]⟩
  · rw [lineState_append, h.cs_high]; simp [LineState.next, hne]
  · intro _; rw [lineState_append, h.clr_high hclr]; simp [LineState.next]

end

theorem Idle.append_clearChip {s : State} {trace : List Event} (h : Idle s.pins trace)
    (hvalid : s.pins.valid = true) : Idle s.pins (trace ++ clearChipEvents s) := by
  unfold clearChipEvents
  split
  next hclr => exact h.append_pulse hvalid hclr _
  next => exact h.append_frame hvalid _ _

/-- A live block stays idle whatever it is told, but for TEARDOWN; INIT has its own lemma, `idle_after_init`. -/
theorem Idle.append_eventsOf {s : State} (h : Idle s.pins s.trace) (hvalid : s.pins.valid = true)
    (hinit : s.initialized = true) {i : Instr} (hi : ∀ V g, i ≠ .init V g) (ht : i ≠ .teardown) :
    Idle s.pins (s.trace ++ eventsOf i s) := by
  cases i with
  | init V g => exact absurd rfl (hi V g)
  | teardown => exact absurd rfl ht
  | update => simpa [eventsOf, updateEvents, hinit] using h.append_frame hvalid _ _
  | clear => simpa [eventsOf, clearEvents, hinit] using h.append_clearChip hvalid
  | _ => simpa [eventsOf] using h

/-! The set-up of the lines (R111 b) -/

/-- A line that is set up is HIGH, whatever it was. -/
theorem lineSetup_drives_high (p : PinId) (st : LineState) :
    (lineSetup p).foldl (lineScan p) (some st) = some (.driven .high) := by
  cases st <;> simp [lineSetup, LineState.next]

theorem lineSetup_keeps_line {p q : PinId} (h : q ≠ p) (st : LineState) :
    (lineSetup q).foldl (lineScan p) (some st) = some st := by
  simp [lineSetup, LineState.next, h]

theorem lineSetup_keeps_held (cs p : PinId) :
    (lineSetup p).foldl (busScan cs) (some .held) = some .held := by
  simp [lineSetup, BusPhase.next, heldNext]

/-- The set-up makes any acquired block idle, whether its lines were set up before or not. -/
theorem idle_append_setup {s : State} {trace : List Event} (hvalid : s.pins.valid = true)
    (hbus : busPhase s.pins.csPin trace = some .held) (howned : ∀ e ∈ trace, ownedEvent s.pins e = true)
    {cs clr : LineState} (hcs : lineState s.pins.csPin trace = some cs)
    (hclr : s.pins.clrPresent = true → lineState s.pins.clrPin trace = some clr) :
    Idle s.pins (trace ++ setupEvents s) := by
  cases hpresent : s.pins.clrPresent with
  | false =>
    simp only [setupEvents, hpresent, Bool.false_eq_true, if_false, List.append_nil]
    exact {
      bus := by rw [busPhase_append, hbus, lineSetup_keeps_held]
      owned := List.forall_mem_append.2 ⟨howned, by simp [lineSetup, ownedEvent]⟩
      cs_high := by rw [lineState_append, hcs, lineSetup_drives_high]
      clr_high := by simp [hpresent] }
  | true =>
    have hne := clrPin_ne_csPin hvalid hpresent
    simp only [setupEvents, hpresent, if_true]
    exact {
      bus := by rw [busPhase_append, hbus, List.foldl_append, lineSetup_keeps_held, lineSetup_keeps_held]
      owned := List.forall_mem_append.2 ⟨howned, by simp [lineSetup, ownedEvent, hpresent]⟩
      cs_high := by
        rw [lineState_append, hcs, List.foldl_append, lineSetup_drives_high, lineSetup_keeps_line hne]
      clr_high := fun _ => by
        rw [lineState_append, hclr hpresent, List.foldl_append, lineSetup_keeps_line hne.symm,
          lineSetup_drives_high] }

/-- INIT leaves a live block idle: the first one acquires the bus on an empty trace (R115), a later one finds the
block idle (R112). -/
theorem idle_after_init {s : State} (h : BlockInv s) (halive : s.destroyed = false) :
    Idle s.pins (s.trace ++ initEvents s) := by
  have hvalid := h.pins_valid
  cases hinit : s.initialized with
  | false =>
    have hsetup : Idle s.pins ([.busBegin] ++ setupEvents s) :=
      idle_append_setup (cs := .unconfigured) (clr := .unconfigured) hvalid rfl (by simp [ownedEvent]) rfl fun _ => rfl
    simpa [initEvents, hinit, h.silent hinit] using hsetup.append_clearChip hvalid
  | true =>
    have hidle := h.idle hinit halive
    have hsetup := idle_append_setup hvalid hidle.bus hidle.owned hidle.cs_high hidle.clr_high
    simpa [initEvents, hinit] using hsetup.append_clearChip hvalid

/-! ## Every accepted command keeps the invariant (R32) -/

/-- The invariant reads the configuration, the two parameters, the flags and the trace, and nothing else. -/
theorem BlockInv.congr {s t : State} (h : BlockInv s) (hpins : t.pins = s.pins) (htrace : t.trace = s.trace)
    (hinit : t.initialized = s.initialized) (hphase : t.expectedPhase = s.expectedPhase)
    (hvref : t.vref.toNat ≤ 2700000) (hgain : t.gain = 1 ∨ t.gain = 2) : BlockInv t where
  pins_valid := hpins ▸ h.pins_valid
  vref_range := hvref
  gain_legal := hgain
  silent := by rw [hinit, htrace]; exact h.silent
  bus := by rw [hpins, htrace, hphase]; exact h.bus
  owned := by rw [hpins, htrace]; exact h.owned
  cs_high := by rw [hpins, htrace, hinit]; exact h.cs_high
  clr_high := by rw [hpins, htrace, hinit]; exact h.clr_high

theorem BlockInv.set_inputs {s : State} (h : BlockInv s) (rest : List Input) :
    BlockInv { s with inputs := rest } :=
  h.congr rfl rfl rfl rfl h.vref_range h.gain_legal

theorem BlockInv.respond {s : State} (h : BlockInv s) (r : Response) : BlockInv (s.respond r) :=
  h.congr rfl rfl rfl rfl h.vref_range h.gain_legal

/-- Before INIT only INIT emits (R115). -/
theorem eventsOf_eq_nil_of_uninitialized {i : Instr} {s : State} (hi : ∀ V g, i ≠ .init V g)
    (hinit : s.initialized = false) : eventsOf i s = [] := by
  cases i with
  | init V g => exact absurd rfl (hi V g)
  | update => simp [eventsOf, updateEvents, hinit]
  | clear => simp [eventsOf, clearEvents, hinit]
  | teardown => simp [eventsOf, teardownEvents, hinit]
  | _ => rfl

/-- TEARDOWN closes a bus that was held, and nothing else (R113). -/
theorem BlockInv.after_teardown {s : State} (h : BlockInv s) (halive : s.destroyed = false) :
    BlockInv (after .teardown s) := by
  have hkeep := after_initialized_of_ne_init (i := .teardown) (by simp) s
  have hgone := after_teardown_destroyed s
  cases hinit : s.initialized with
  | false =>
    have hquiet : eventsOf .teardown s = [] := eventsOf_eq_nil_of_uninitialized (by simp) hinit
    exact h.congr (after_pins _ s) (by simp [hquiet]) hkeep (by simp [State.expectedPhase, hkeep, hinit])
      (after_vref_range h.vref_range _) (after_gain_legal h.gain_legal _)
  | true =>
    have hidle := h.idle hinit halive
    have htrace : (after .teardown s).trace = s.trace ++ [.busEnd] := by simp [eventsOf, teardownEvents, hinit]
    rw [hinit] at hkeep
    exact {
      pins_valid := by simpa using h.pins_valid
      vref_range := after_vref_range h.vref_range _
      gain_legal := after_gain_legal h.gain_legal _
      silent := by simp [hkeep]
      bus := by
        rw [htrace, after_pins, busPhase_append, hidle.bus]
        simp [State.expectedPhase, hkeep, hgone, BusPhase.next, heldNext]
      owned := by
        rw [htrace, after_pins]
        exact List.forall_mem_append.2 ⟨hidle.owned, by simp [ownedEvent]⟩
      cs_high := fun _ => by
        rw [htrace, after_pins, lineState_append, hidle.cs_high]; simp [LineState.next]
      clr_high := fun _ hclr => by
        rw [after_pins] at hclr
        rw [htrace, after_pins, lineState_append, hidle.clr_high hclr]; simp [LineState.next] }

theorem BlockInv.after_init {s : State} (h : BlockInv s) (halive : s.destroyed = false) (V g : Int) :
    BlockInv (after (.init V g) s) :=
  .of_idle (by simpa [eventsOf] using idle_after_init h halive) (by simpa using h.pins_valid)
    (after_vref_range h.vref_range _) (after_gain_legal h.gain_legal _) (after_init_initialized V g s)
    (by rw [after_destroyed_of_ne_teardown (by simp), halive])

/-- Between INIT and TEARDOWN a command leaves the block idle; before INIT it leaves the trace empty. -/
theorem BlockInv.after_other {s : State} (h : BlockInv s) (halive : s.destroyed = false) {i : Instr}
    (hi : ∀ V g, i ≠ .init V g) (ht : i ≠ .teardown) : BlockInv (after i s) := by
  have hkeep := after_initialized_of_ne_init hi s
  have hdestroyed := after_destroyed_of_ne_teardown ht s
  have hvref := after_vref_range h.vref_range i
  have hgain := after_gain_legal h.gain_legal i
  cases hinit : s.initialized with
  | false =>
    exact h.congr (after_pins i s) (by simp [eventsOf_eq_nil_of_uninitialized hi hinit]) hkeep
      (by simp [State.expectedPhase, hkeep, hdestroyed]) hvref hgain
  | true =>
    have hidle := (h.idle hinit halive).append_eventsOf h.pins_valid hinit hi ht
    exact .of_idle (by simpa using hidle) (by simpa using h.pins_valid) hvref hgain (hkeep.trans hinit)
      (hdestroyed.trans halive)

/-- R32: an accepted command keeps the invariant. -/
theorem BlockInv.after_command {s : State} (h : BlockInv s) (halive : s.destroyed = false) (i : Instr) :
    BlockInv (after i s) := by
  cases i with
  | init V g => exact h.after_init halive V g
  | teardown => exact h.after_teardown halive
  | _ => exact h.after_other halive (by simp) (by simp)

/-! ## Runs of commands (R180, R227) -/

theorem Ready.set_inputs {s : State} (h : Ready s) (rest : List Input) : Ready { s with inputs := rest } :=
  ⟨h.pins_valid, h.alive, h.capabilities⟩

theorem Ready.respond {s : State} (h : Ready s) (r : Response) : Ready (s.respond r) :=
  ⟨h.pins_valid, h.alive, h.capabilities⟩

theorem Ready.after_command {s : State} (h : Ready s) {i : Instr} (ht : i ≠ .teardown) : Ready (after i s) where
  pins_valid := by simpa using h.pins_valid
  alive := by rw [after_destroyed_of_ne_teardown ht, h.alive]
  capabilities := by simpa using h.capabilities

theorem execReserved_of_ready {s : State} (h : Ready s) : execReserved s = .next (s.respond 0) :=
  accept_next_iff.2 ⟨h.pins_valid, h.alive, by simp [capabilitiesComplete], by simp⟩

/-- One word of a run: it completes, answers once and keeps the invariant, and the block is ready for the next word
unless this one was TEARDOWN. -/
theorem step_command_of_ready {s : State} {w : CommandWord} {rest : List Input} (hready : Ready s)
    (hinv : BlockInv s) (hin : s.inputs = .command w :: rest) :
    ∃ t, step s = .next t ∧ t.inputs = rest ∧ t.responses.length = s.responses.length + 1 ∧ BlockInv t ∧
      (decode w ≠ .instr .teardown → Ready t) := by
  have hready' := hready.set_inputs rest
  have hinv' := hinv.set_inputs rest
  rw [step_of_command hin]
  cases decode w with
  | instr i =>
    refine ⟨_, exec_of_ready hready' i, by simp, by simp, hinv'.after_command hready'.alive i, fun hne => ?_⟩
    exact hready'.after_command fun hi => hne (by rw [hi])
  | reserved why =>
    exact ⟨_, execReserved_of_ready hready', rfl, by simp, hinv'.respond 0, fun _ => hready'.respond 0⟩

theorem run_succ_of_step {s t : State} (h : step s = .next t) (k : Nat) :
    Host.Core.run Sys2Proof.core (k + 1) s = Host.Core.run Sys2Proof.core k t := by
  have hcore : Sys2Proof.core.step s = .next t := h
  simp only [Host.Core.run, hcore]

/-- The induction of R227: readiness is needed only while words are left, since the last may be TEARDOWN. -/
theorem run_commands_completes (ws : List CommandWord) (s : State) (hready : ws ≠ [] → Ready s) (hinv : BlockInv s)
    (hin : s.inputs = ws.map .command)
    (hlast : ∀ before w later, ws = before ++ w :: later → later ≠ [] → decode w ≠ .instr .teardown) :
    ∃ t : State, Host.Core.run Sys2Proof.core ws.length s = .next t ∧ t.inputs = [] ∧
      t.responses.length = s.responses.length + ws.length ∧ BlockInv t := by
  induction ws generalizing s with
  | nil => exact ⟨s, rfl, hin, rfl, hinv⟩
  | cons w ws ih =>
    obtain ⟨u, hstep, hinputs, hresponses, hinvu, hreadyu⟩ :=
      step_command_of_ready (hready (by simp)) hinv hin
    have hlast' : ∀ before v later, ws = before ++ v :: later → later ≠ [] → decode v ≠ .instr .teardown :=
      fun before v later h => hlast (w :: before) v later (by rw [h]; rfl)
    obtain ⟨t, hrun, hdone, hcount, hinvt⟩ :=
      ih u (fun hne => hreadyu (hlast [] w ws rfl hne)) hinvu hinputs hlast'
    refine ⟨t, ?_, hdone, ?_, hinvt⟩
    · rw [List.length_cons, run_succ_of_step hstep, hrun]
    · rw [hcount, hresponses, List.length_cons]; omega

/-- Settles O45, by induction on the words. -/
theorem runOfCommandsCompletes : Obligations.RunOfCommandsCompletes :=
  fun ws s hready => run_commands_completes ws s fun _ => hready

end Sys2Proof.Machine

/-! PROOFS. The family of 10_state.md: what reset leaves (R31), the invariants of R32 and of the lines (R35), who writes
what (R33), what the events depend on (R22, R23), and the chip view (R36, R37). -/

namespace Sys2Proof.Machine

/-! ## The invariant along every step (R32) -/

theorem resetWith_blockInv {pins : PinConfig} (hvalid : pins.valid = true) (clk : ClockWord) :
    BlockInv (State.resetWith pins clk) where
  pins_valid := hvalid
  vref_range := by simp
  gain_legal := .inr rfl
  silent _ := rfl
  bus := rfl
  owned := by simp
  cs_high := by simp
  clr_high := by simp

/-- A completed command is an accepted one, and those keep the invariant. -/
theorem BlockInv.exec {i : Instr} {s t : State} (h : BlockInv s) (hexec : exec i s = .next t) : BlockInv t := by
  obtain ⟨haccepts, -, rfl⟩ := (exec_next_iff i s t).1 hexec
  exact h.after_command haccepts.alive i

/-- Settles O40, case by case of what a step can do: the invariant reads neither the inputs, the responses nor the
capabilities, a command keeps it, and a reset restores it. -/
theorem everyStepKeepsInvariant : Obligations.EveryStepKeepsInvariant := by
  intro s t hinv hstep
  obtain ⟨-, -, rfl⟩ | ⟨w, rest, i, -, -, hexec⟩ | ⟨w, rest, why, -, -, -, rfl⟩ |
    ⟨pins, rest, -, hvalid, rfl⟩ | ⟨answer, rest, -, rfl⟩ := step_next_cases hstep
  case inl => exact hinv
  case inr.inl => exact (hinv.set_inputs rest).exec hexec
  case inr.inr.inl => exact (hinv.set_inputs rest).respond 0
  case inr.inr.inr.inl =>
    have hreset := resetWith_blockInv hvalid Config.clkReset
    exact hreset.congr rfl rfl rfl rfl hreset.vref_range hreset.gain_legal
  case inr.inr.inr.inr => exact hinv.congr rfl rfl rfl rfl hinv.vref_range hinv.gain_legal

/-- Settles O37. -/
theorem resetLeavesSpecValues : Obligations.ResetLeavesSpecValues :=
  ⟨fun _ _ => ⟨rfl, rfl, rfl, rfl, rfl, rfl, rfl, rfl, rfl⟩, Config.scenarioPins, rfl, rfl⟩

/-- Settles O39. -/
theorem invariantHoldsAtReset : Obligations.InvariantHoldsAtReset :=
  ⟨fun _ clk hvalid => resetWith_blockInv hvalid clk, resetWith_blockInv rfl Config.clkReset⟩

/-! ## One acquisition and one release (R32 e) -/

/-- How often the bus has been acquired when the scan stands in a phase. -/
def BusPhase.begins : BusPhase → Nat
  | .free => 0
  | .held => 1
  | .inTxn _ _ => 1
  | .closed => 1

/-- How often it has been released. -/
def BusPhase.ends : BusPhase → Nat
  | .free => 0
  | .held => 0
  | .inTxn _ _ => 0
  | .closed => 1

/-- Inside a transaction the bus is neither acquired nor released, and it stays held. -/
theorem txnNext_inside {cs : PinId} {selected : Bool} {sent : Nat} {e : Event} {ph : BusPhase}
    (h : txnNext cs selected sent e = some ph) :
    e ≠ .busBegin ∧ e ≠ .busEnd ∧ ph.begins = 1 ∧ ph.ends = 0 := by
  unfold txnNext at h
  split at h
  case h_5 => cases h
  all_goals
    obtain ⟨-, hph⟩ := Option.ite_none_right_eq_some.1 h
    cases hph
    exact ⟨by simp, by simp, rfl, rfl⟩

/-- What one event does to the two counts: of all the moves of the protocol only `free` to `held` is a BusBegin and
only `held` to `closed` a BusEnd. -/
theorem BusPhase.next_counts {cs : PinId} {ph ph' : BusPhase} {e : Event} (h : ph.next cs e = some ph') :
    ph'.begins = ph.begins + [e].count .busBegin ∧ ph'.ends = ph.ends + [e].count .busEnd := by
  cases ph with
  | free =>
    simp only [BusPhase.next, Option.ite_none_right_eq_some, Option.some.injEq] at h
    obtain ⟨rfl, rfl⟩ := h
    simp [BusPhase.begins, BusPhase.ends]
  | held => cases e <;> grind [BusPhase.next, heldNext, BusPhase.begins, BusPhase.ends]
  | inTxn selected sent =>
    obtain ⟨hbegin, hend, hbegins, hends⟩ := txnNext_inside h
    rw [hbegins, hends, List.count_eq_zero.2 (by simpa using hbegin.symm),
      List.count_eq_zero.2 (by simpa using hend.symm)]
    exact ⟨rfl, rfl⟩
  | closed => simp [BusPhase.next] at h

/-- A scan that broke stays broken. -/
theorem busScan_none (cs : PinId) (es : List Event) : es.foldl (busScan cs) none = none := by
  induction es with
  | nil => rfl
  | cons e es ih => exact ih

/-- The scan took every event of an unbroken trace at the phase the events before it had led to. -/
theorem next_isSome_of_busPhase {cs : PinId} {before later : List Event} {e : Event} {ph : BusPhase}
    (h : busPhase cs (before ++ e :: later) = some ph) :
    ∃ ph₁ ph₂, busPhase cs before = some ph₁ ∧ ph₁.next cs e = some ph₂ := by
  rw [busPhase_append, List.foldl_cons] at h
  cases hbefore : busPhase cs before with
  | none => simp [hbefore, busScan, busScan_none] at h
  | some ph₁ =>
    cases hnext : ph₁.next cs e with
    | none => simp [hbefore, hnext, busScan_none] at h
    | some ph₂ => exact ⟨ph₁, ph₂, rfl, hnext⟩

/-- An unbroken trace acquired and released the bus as often as the phase it ends in says. -/
theorem counts_of_busPhase {cs : PinId} {es : List Event} {ph : BusPhase} (h : busPhase cs es = some ph) :
    es.count .busBegin = ph.begins ∧ es.count .busEnd = ph.ends := by
  induction es using List.reverseRecOn generalizing ph with
  | nil => cases h; exact ⟨rfl, rfl⟩
  | append_singleton es e ih =>
    obtain ⟨ph₁, ph₂, hes, hnext⟩ := next_isSome_of_busPhase h
    have hph : ph₂ = ph := by simpa [busPhase_append, hes, hnext] using h
    obtain ⟨hbegins, hends⟩ := BusPhase.next_counts (hph ▸ hnext)
    obtain ⟨ihbegins, ihends⟩ := ih hes
    rw [List.count_append, List.count_append, ihbegins, ihends, hbegins, hends]
    exact ⟨rfl, rfl⟩

theorem BusPhase.begins_le_one (ph : BusPhase) : ph.begins ≤ 1 := by cases ph <;> simp [BusPhase.begins]

theorem BusPhase.ends_le_one (ph : BusPhase) : ph.ends ≤ 1 := by cases ph <;> simp [BusPhase.ends]

/-- The bus is released only while it is held. -/
theorem BusPhase.eq_held_of_next_busEnd {cs : PinId} {ph ph' : BusPhase} (h : ph.next cs .busEnd = some ph') :
    ph = .held := by
  cases ph <;> simp_all [BusPhase.next, txnNext]

/-- A BusEnd comes after a BusBegin: the bus was held, so the trace before counts one. -/
theorem busBegin_mem_before_busEnd {cs : PinId} {before later : List Event} {ph : BusPhase}
    (h : busPhase cs (before ++ .busEnd :: later) = some ph) : .busBegin ∈ before := by
  obtain ⟨ph₁, ph₂, hbefore, hnext⟩ := next_isSome_of_busPhase h
  rw [BusPhase.eq_held_of_next_busEnd hnext] at hbefore
  have hone : before.count .busBegin = 1 := (counts_of_busPhase hbefore).1
  exact List.count_pos_iff.1 (by omega)

/-! ## The flags are never cleared but by reset (R25, R26) -/

theorem after_keeps_flags (i : Instr) (s : State) :
    (s.initialized = true → (after i s).initialized = true) ∧
      (s.destroyed = true → (after i s).destroyed = true) := by
  constructor <;> intro h
  · by_cases hi : ∃ V g, i = .init V g
    · obtain ⟨V, g, rfl⟩ := hi; exact after_init_initialized V g s
    · rw [after_initialized_of_ne_init (fun V g he => hi ⟨V, g, he⟩), h]
  · by_cases ht : i = .teardown
    · rw [ht]; exact after_teardown_destroyed s
    · rw [after_destroyed_of_ne_teardown ht, h]

theorem step_keeps_flags {s t : State} (hstep : step s = .next t) (hreset : ∀ p rest, s.inputs ≠ .reset p :: rest) :
    (s.initialized = true → t.initialized = true) ∧ (s.destroyed = true → t.destroyed = true) := by
  obtain ⟨-, -, rfl⟩ | ⟨w, rest, i, -, -, hexec⟩ | ⟨w, rest, why, -, -, -, rfl⟩ |
    ⟨pins, rest, hin, -, -⟩ | ⟨answer, rest, -, rfl⟩ := step_next_cases hstep
  · exact ⟨id, id⟩
  · obtain ⟨-, -, rfl⟩ := (exec_next_iff i _ t).1 hexec
    exact after_keeps_flags i { s with inputs := rest }
  · exact ⟨id, id⟩
  · exact absurd hin (hreset pins rest)
  · exact ⟨id, id⟩

/-- Settles O41: the registers' ranges are the invariant's and the codes' width, the counts are the bus phase's. -/
theorem registersInRangeAndBusAcquiredOnce : Obligations.RegistersInRangeAndBusAcquiredOnce := by
  intro s hinv
  have hcodes : s.chA.toNat ≤ 4095 ∧ s.chB.toNat ≤ 4095 := ⟨Nat.le_of_lt_succ s.chA.isLt, Nat.le_of_lt_succ s.chB.isLt⟩
  have hgain : s.gain.toNat = 1 ∨ s.gain.toNat = 2 :=
    hinv.gain_legal.imp (congrArg BitVec.toNat) (congrArg BitVec.toNat)
  obtain ⟨hbegins, hends⟩ := counts_of_busPhase hinv.bus
  exact ⟨hcodes, hinv.vref_range, hgain, fun _ => step_keeps_flags, hbegins ▸ BusPhase.begins_le_one _,
    hends ▸ BusPhase.ends_le_one _, fun _ _ htrace => busBegin_mem_before_busEnd (htrace ▸ hinv.bus)⟩

/-! ## The lines between commands (R35) -/

/-- Settles O43: a line scanned as driven HIGH has that level, and an empty trace gives no line a level. -/
theorem linesIdleHighBetweenCommands : Obligations.LinesIdleHighBetweenCommands := by
  refine fun s hinv => ⟨fun hinit => ⟨lineLevel_of_driven (hinv.cs_high hinit), fun hclr => ?_⟩, fun hinit p => ?_⟩
  · exact lineLevel_of_driven (hinv.clr_high hinit hclr)
  · rw [hinv.silent hinit]; rfl

/-! ## What a command writes (R33) -/

section
variable {i : Instr} {s : State}

/-- SET and SETV write the channels their selector covers, CLEAR and INIT both. -/
theorem writer_of_channel_ne {c : Channel} (h : (after i s).channel c ≠ s.channel c) :
    i = .clear ∨ (∃ V g, i = .init V g) ∨ ∃ sel x, sel.covers c = true ∧ (i = .set sel x ∨ i = .setV sel x) := by
  cases i with
  | init V g => exact .inr (.inl ⟨V, g, rfl⟩)
  | clear => exact .inl rfl
  | set sel x =>
    refine .inr (.inr ⟨sel, x, ?_, .inl rfl⟩)
    cases c <;> by_contra hc <;> simp [State.channel, after, registersAfter, hc] at h
  | setV sel x =>
    refine .inr (.inr ⟨sel, x, ?_, .inr rfl⟩)
    cases c <;> by_contra hc <;> simp [State.channel, after, registersAfter, convert_state, hc] at h
  | _ => cases c <;> simp [State.channel, after, registersAfter, convert_state] at h

theorem writer_of_vref_ne (h : (after i s).vref ≠ s.vref) : (∃ V g, i = .init V g) ∨ ∃ V, i = .setVref V := by
  cases i with
  | init V g => exact .inl ⟨V, g, rfl⟩
  | setVref V => exact .inr ⟨V, rfl⟩
  | _ => simp [after, registersAfter, convert_state] at h

theorem writer_of_gain_ne (h : (after i s).gain ≠ s.gain) : (∃ V g, i = .init V g) ∨ ∃ g, i = .setGain g := by
  cases i with
  | init V g => exact .inl ⟨V, g, rfl⟩
  | setGain g => exact .inr ⟨g, rfl⟩
  | _ => simp [after, registersAfter, convert_state] at h

theorem writer_of_clk_ne (h : (after i s).clk ≠ s.clk) : ∃ k, i = .setClk k := by
  by_contra hi
  exact h (registersAfter_clk (not_exists.1 hi) s)

theorem writer_of_initialized_ne (h : (after i s).initialized ≠ s.initialized) : ∃ V g, i = .init V g := by
  by_contra hi
  exact h (after_initialized_of_ne_init (fun V g he => hi ⟨V, g, he⟩) s)

theorem writer_of_destroyed_ne (h : (after i s).destroyed ≠ s.destroyed) : i = .teardown := by
  by_contra hi
  exact h (after_destroyed_of_ne_teardown hi s)

theorem emitter_of_trace_ne (h : (after i s).trace ≠ s.trace) :
    i = .update ∨ i = .clear ∨ i = .teardown ∨ ∃ V g, i = .init V g := by
  cases i with
  | init V g => exact .inr (.inr (.inr ⟨V, g, rfl⟩))
  | update => exact .inl rfl
  | clear => exact .inr (.inl rfl)
  | teardown => exact .inr (.inr (.inl rfl))
  | _ => simp [eventsOf] at h

end

theorem ne_b_of_covers_a {sel : Selector} (h : sel.covers .a = true) : sel ≠ .b := by rintro rfl; cases h

theorem ne_a_of_covers_b {sel : Selector} (h : sel.covers .b = true) : sel ≠ .a := by rintro rfl; cases h

/-- Settles O49, element by element of the table of R33. -/
theorem commandsWriteOnlyTheirState : Obligations.CommandsWriteOnlyTheirState := by
  intro i s t hexec
  obtain ⟨-, -, rfl⟩ := (exec_next_iff i s t).1 hexec
  refine ⟨fun h => ?chA, fun h => ?chB, writer_of_vref_ne, writer_of_gain_ne, writer_of_clk_ne,
    writer_of_initialized_ne, writer_of_destroyed_ne, emitter_of_trace_ne⟩
  case chA =>
    exact (writer_of_channel_ne (c := .a) h).imp_right (Or.imp_right fun ⟨sel, x, hsel, hi⟩ =>
      ⟨sel, x, ne_b_of_covers_a hsel, hi⟩)
  case chB =>
    exact (writer_of_channel_ne (c := .b) h).imp_right (Or.imp_right fun ⟨sel, x, hsel, hi⟩ =>
      ⟨sel, x, ne_a_of_covers_b hsel, hi⟩)

/-! ## What the events depend on (R22, R23) -/

/-- Of the state the events read the configuration, the clock word, `initialized` and the channels. -/
theorem eventsOf_congr {s s' : State} (hinit : s.initialized = s'.initialized) (hpins : s.pins = s'.pins)
    (hclk : s.clk = s'.clk) (hchA : s.chA = s'.chA) (hchB : s.chB = s'.chB) (i : Instr) :
    eventsOf i s = eventsOf i s' := by
  have hclear : clearChipEvents s = clearChipEvents s' := by simp only [clearChipEvents, hpins, hclk]
  cases i with
  | init V g => simp only [eventsOf, initEvents, setupEvents, hinit, hpins, hclear]
  | update => simp only [eventsOf, updateEvents, hinit, hpins, hclk, hchA, hchB]
  | clear => simp only [eventsOf, clearEvents, hinit, hclear]
  | teardown => simp only [eventsOf, teardownEvents, hinit]
  | _ => rfl

/-- Settles O51: the events are `eventsOf`, which reads neither `vref`, `gain` nor the responses. -/
theorem eventsDoNotDependOnParameters : Obligations.EventsDoNotDependOnParameters := by
  intro i s s' t t' hinit hpins hclk hchA hchB hexec hexec'
  obtain ⟨-, -, rfl⟩ := (exec_next_iff i s t).1 hexec
  obtain ⟨-, -, rfl⟩ := (exec_next_iff i s' t').1 hexec'
  refine ⟨eventsOf i s, after_trace i s, ?_⟩
  rw [after_trace, eventsOf_congr hinit hpins hclk hchA hchB]

/-! ## The chip view (R36, R37) -/

theorem getLsbD_mask4 (i : Nat) : (0xF#12).getLsbD i = decide (i < 4) := by
  have hmask : 0xF#12 = (BitVec.allOnes 4).setWidth 12 := rfl
  rw [hmask, BitVec.getLsbD_setWidth, BitVec.getLsbD_allOnes]
  grind

theorem getLsbD_mask8 (i : Nat) : (0xFF#12).getLsbD i = decide (i < 8) := by
  have hmask : 0xFF#12 = (BitVec.allOnes 8).setWidth 12 := rfl
  rw [hmask, BitVec.getLsbD_setWidth, BitVec.getLsbD_allOnes]
  grind

/-- R131: the chip reads back the codes the frame was packed from. The low four bits of the first code and the high four
of the second travel in the middle byte. -/
theorem unpack_pack (a b : Code) : unpack (pack a b).1 (pack a b).2.1 (pack a b).2.2 = (a, b) := by
  apply Prod.ext <;> apply BitVec.eq_of_getLsbD_eq <;> intro i hi <;>
    simp only [unpack, pack, BitVec.getLsbD_or, BitVec.getLsbD_and, BitVec.getLsbD_shiftLeft,
      BitVec.getLsbD_ushiftRight, BitVec.getLsbD_setWidth, getLsbD_mask4, getLsbD_mask8]
  · have hb : b.getLsbD (8 + (4 + i)) = false := BitVec.getLsbD_of_ge b _ (by omega)
    by_cases h : i < 4
    · simp [h, hb, show 4 + i < 12 by omega, show 4 + i < 8 by omega, hi]
    · simp [h, hi, show 4 + (i - 4) = i by omega, show ¬ 4 + i < 8 by omega, show i - 4 < 8 by omega,
        show i - 4 < 12 by omega]
  · by_cases h : i < 8
    · simp [h, hi]
    · simp [h, hi, show i - 8 < 4 by omega, show i - 8 < 8 by omega, show i - 8 < 12 by omega,
        show 8 + (i - 8) = i by omega]

/-- After a frame the chip holds the codes that were packed into it. -/
theorem chipView_append_frame (pins : PinConfig) (trace : List Event) (clk : ClockWord) (a b : Code) :
    chipView pins (trace ++ frameEvents pins.csPin clk (pack a b)) = some (a, b) := by
  rw [chipView, chipScan_append, frame_latches, unpack_pack]

/-- The pulse on the clear line zeroes the chip (R37); the line is not chip-select (R7). -/
theorem chipView_append_pulse {pins : PinConfig} (hvalid : pins.valid = true) (hclr : pins.clrPresent = true)
    (trace : List Event) (n : Nat) :
    chipView pins (trace ++ [.pinLevel pins.clrPin .low, .delay n, .pinLevel pins.clrPin .high]) = some (0, 0) := by
  have hne := clrPin_ne_csPin hvalid hclr
  rw [chipView, chipScan_append]
  simp [ChipView.next, hne, hclr]

/-- A clear of the chip zeroes it, by the pulse or by the electrical clear (R140). -/
theorem chipView_append_clearChip {s : State} (hvalid : s.pins.valid = true) (trace : List Event) :
    chipView s.pins (trace ++ clearChipEvents s) = some (0, 0) := by
  unfold clearChipEvents
  split
  next hclr => exact chipView_append_pulse hvalid hclr trace _
  next =>
    have hframe := chipView_append_frame s.pins trace s.clk 0#12 0#12
    rw [pack_zero] at hframe
    exact hframe

/-- Settles O53: INIT and CLEAR end in a clear of the chip and zero the registers, UPDATE ends in a frame of them. -/
theorem chipViewFollowsRegisters : Obligations.ChipViewFollowsRegisters := by
  intro i s t hinv hi hexec
  obtain ⟨-, -, rfl⟩ := (exec_next_iff i s t).1 hexec
  rw [after_pins, after_trace]
  obtain ⟨V, g, rfl⟩ | ⟨hinit, rfl | rfl⟩ := hi
  case inl =>
    rw [eventsOf, initEvents, ← List.append_assoc]
    exact chipView_append_clearChip hinv.pins_valid _
  case inr.inl =>
    rw [eventsOf, updateEvents, if_pos hinit]
    exact chipView_append_frame s.pins s.trace s.clk s.chA s.chB
  case inr.inr =>
    rw [eventsOf, clearEvents, if_pos hinit]
    exact chipView_append_clearChip hinv.pins_valid s.trace

end Sys2Proof.Machine

/-! PROOFS. The family of 20_memory.md: the bus is used in whole frames (R62, R64). The scan of the bus that the invariant
carries allows nothing else, so both halves are read off the phases it passes through. -/

namespace Sys2Proof.Machine

/-! ## The moves inside a transaction -/

/-- The transactions open in a phase. -/
def BusPhase.openTxns : BusPhase → Nat
  | .inTxn _ _ => 1
  | _ => 0

/-- The bytes sent in the transaction that is open. -/
def BusPhase.sentBytes : BusPhase → Nat
  | .inTxn _ sent => sent
  | _ => 0

theorem expectedPhase_openTxns (s : State) : s.expectedPhase.openTxns = 0 := by
  unfold State.expectedPhase; split_ifs <;> rfl

theorem expectedPhase_sentBytes (s : State) : s.expectedPhase.sentBytes = 0 := by
  unfold State.expectedPhase; split_ifs <;> rfl

/-- The four moves of an open transaction (R62, R64). -/
theorem txnNext_cases {cs : PinId} {selected : Bool} {sent : Nat} {e : Event} {ph : BusPhase}
    (h : txnNext cs selected sent e = some ph) :
    (e = .pinLevel cs .low ∧ selected = false ∧ sent = 0 ∧ ph = .inTxn true 0) ∨
    (∃ b, e = .transfer b ∧ selected = true ∧ sent < 3 ∧ ph = .inTxn true (sent + 1)) ∨
    (e = .pinLevel cs .high ∧ selected = true ∧ sent = 3 ∧ ph = .inTxn false 3) ∨
    (e = .txnEnd ∧ selected = false ∧ sent = 3 ∧ ph = .held) := by
  unfold txnNext at h
  split at h
  case h_5 => cases h
  all_goals
    obtain ⟨hguard, hph⟩ := Option.ite_none_right_eq_some.1 h
    cases hph
    simp [hguard]

/-! ## A transaction that is opened runs through its frame -/

section
variable {cs : PinId} {es : List Event} {ph : BusPhase}

/-- A scan that starts inside a transaction and ends outside has another event to take. -/
theorem exists_next_of_inTxn {selected : Bool} {sent : Nat}
    (h : es.foldl (busScan cs) (some (.inTxn selected sent)) = some ph) (hph : ph.openTxns = 0) :
    ∃ e es' ph', es = e :: es' ∧ txnNext cs selected sent e = some ph' ∧
      es'.foldl (busScan cs) (some ph') = some ph := by
  cases es with
  | nil => cases h; cases hph
  | cons e es' =>
    rw [List.foldl_cons, busScan_some, BusPhase.next] at h
    cases hnext : txnNext cs selected sent e with
    | none => simp [hnext, busScan_none] at h
    | some ph' => exact ⟨e, es', ph', rfl, hnext, hnext ▸ h⟩

theorem select_of_opened (h : es.foldl (busScan cs) (some (.inTxn false 0)) = some ph) (hph : ph.openTxns = 0) :
    ∃ es', es = .pinLevel cs .low :: es' ∧ es'.foldl (busScan cs) (some (.inTxn true 0)) = some ph := by
  obtain ⟨e, es', ph', rfl, hnext, hrest⟩ := exists_next_of_inTxn h hph
  obtain ⟨rfl, -, -, rfl⟩ | ⟨_, -, hsel, -⟩ | ⟨-, hsel, -⟩ | ⟨-, -, hsent, -⟩ := txnNext_cases hnext
  · exact ⟨es', rfl, hrest⟩
  · cases hsel
  · cases hsel
  · cases hsent

theorem transfer_of_selected {sent : Nat} (hsent : sent < 3)
    (h : es.foldl (busScan cs) (some (.inTxn true sent)) = some ph) (hph : ph.openTxns = 0) :
    ∃ b es', es = .transfer b :: es' ∧ es'.foldl (busScan cs) (some (.inTxn true (sent + 1))) = some ph := by
  obtain ⟨e, es', ph', rfl, hnext, hrest⟩ := exists_next_of_inTxn h hph
  obtain ⟨-, hsel, -⟩ | ⟨b, rfl, -, -, rfl⟩ | ⟨-, -, hthree, -⟩ | ⟨-, hsel, -⟩ := txnNext_cases hnext
  · cases hsel
  · exact ⟨b, es', rfl, hrest⟩
  · omega
  · cases hsel

theorem deselect_of_three_sent (h : es.foldl (busScan cs) (some (.inTxn true 3)) = some ph)
    (hph : ph.openTxns = 0) :
    ∃ es', es = .pinLevel cs .high :: es' ∧ es'.foldl (busScan cs) (some (.inTxn false 3)) = some ph := by
  obtain ⟨e, es', ph', rfl, hnext, hrest⟩ := exists_next_of_inTxn h hph
  obtain ⟨-, hsel, -⟩ | ⟨_, -, -, hlt, -⟩ | ⟨rfl, -, -, rfl⟩ | ⟨-, hsel, -⟩ := txnNext_cases hnext
  · cases hsel
  · omega
  · exact ⟨es', rfl, hrest⟩
  · cases hsel

theorem txnEnd_of_deselected (h : es.foldl (busScan cs) (some (.inTxn false 3)) = some ph)
    (hph : ph.openTxns = 0) : ∃ es', es = .txnEnd :: es' := by
  obtain ⟨e, es', ph', rfl, hnext, -⟩ := exists_next_of_inTxn h hph
  obtain ⟨-, -, hsent, -⟩ | ⟨_, -, hsel, -⟩ | ⟨-, hsel, -⟩ | ⟨rfl, -⟩ := txnNext_cases hnext
  · cases hsent
  · cases hsel
  · cases hsel
  · exact ⟨es', rfl⟩

/-- A transaction just opened goes on as the frame of R62, whole. -/
theorem frame_of_opened (h : es.foldl (busScan cs) (some (.inTxn false 0)) = some ph) (hph : ph.openTxns = 0) :
    ∃ b1 b2 b3 rest, es = [.pinLevel cs .low, .transfer b1, .transfer b2, .transfer b3,
      .pinLevel cs .high, .txnEnd] ++ rest := by
  obtain ⟨_, rfl, hselected⟩ := select_of_opened h hph
  obtain ⟨b1, _, rfl, hone⟩ := transfer_of_selected (by decide) hselected hph
  obtain ⟨b2, _, rfl, htwo⟩ := transfer_of_selected (by decide) hone hph
  obtain ⟨b3, _, rfl, hthree⟩ := transfer_of_selected (by decide) htwo hph
  obtain ⟨_, rfl, hdeselected⟩ := deselect_of_three_sent hthree hph
  obtain ⟨rest, rfl⟩ := txnEnd_of_deselected hdeselected hph
  exact ⟨b1, b2, b3, rest, rfl⟩

end

/-- A TxnBegin the protocol allows opens a transaction: chip-select not yet LOW, nothing sent. -/
theorem BusPhase.eq_inTxn_of_next_txnBegin {cs : PinId} {ph ph' : BusPhase} {k : ClockWord}
    (h : ph.next cs (.txnBegin k) = some ph') : ph' = .inTxn false 0 := by
  cases ph with
  | held => cases h; rfl
  | _ => simp [BusPhase.next, txnNext] at h

/-- What follows a TxnBegin of an unbroken trace is scanned from a transaction just opened. -/
theorem foldl_later_of_txnBegin {cs : PinId} {before later : List Event} {k : ClockWord} {ph : BusPhase}
    (h : busPhase cs (before ++ .txnBegin k :: later) = some ph) :
    later.foldl (busScan cs) (some (.inTxn false 0)) = some ph := by
  obtain ⟨ph₁, ph₂, hbefore, hnext⟩ := next_isSome_of_busPhase h
  rw [BusPhase.eq_inTxn_of_next_txnBegin hnext] at hnext
  rwa [busPhase_append, hbefore, List.foldl_cons, busScan_some, hnext] at h

/-! ## No byte and no end stands outside a frame -/

/-- The event sends a byte. -/
def Event.isTransfer : Event → Bool
  | .transfer _ => true
  | _ => false

/-- The event opens a transaction. -/
def Event.isTxnBegin : Event → Bool
  | .txnBegin _ => true
  | _ => false

/-- The balance one event keeps: a transaction is open from its begin to its end, and its end accounts for three
bytes. -/
theorem BusPhase.next_frame_counts {cs : PinId} {ph ph' : BusPhase} {e : Event} (h : ph.next cs e = some ph') :
    ph'.openTxns + [e].count .txnEnd = ph.openTxns + [e].countP Event.isTxnBegin ∧
      ph'.sentBytes + 3 * [e].count .txnEnd = ph.sentBytes + [e].countP Event.isTransfer := by
  cases ph with
  | free =>
    obtain ⟨rfl, hph⟩ := Option.ite_none_right_eq_some.1 h
    cases hph
    exact ⟨rfl, rfl⟩
  | held =>
    cases e with
    | pinLevel p l =>
      obtain ⟨-, hph⟩ := Option.ite_none_left_eq_some.1 h
      cases hph
      exact ⟨rfl, rfl⟩
    | _ => cases h <;> exact ⟨rfl, rfl⟩
  | inTxn selected sent =>
    obtain ⟨rfl, -, rfl, rfl⟩ | ⟨b, rfl, -, -, rfl⟩ | ⟨rfl, -, rfl, rfl⟩ | ⟨rfl, -, rfl, rfl⟩ := txnNext_cases h <;>
      exact ⟨rfl, rfl⟩
  | closed => cases h

/-- An unbroken trace has three transfers and one begin to each end, but for the transaction its phase is in. -/
theorem frame_counts_of_busPhase {cs : PinId} {es : List Event} {ph : BusPhase} (h : busPhase cs es = some ph) :
    es.countP Event.isTransfer = 3 * es.count .txnEnd + ph.sentBytes ∧
      es.countP Event.isTxnBegin = es.count .txnEnd + ph.openTxns := by
  induction es using List.reverseRecOn generalizing ph with
  | nil => cases h; exact ⟨rfl, rfl⟩
  | append_singleton es e ih =>
    obtain ⟨ph₁, ph₂, hes, hnext⟩ := next_isSome_of_busPhase h
    have hph : ph₂ = ph := by simpa [busPhase_append, hes, hnext] using h
    obtain ⟨hopen, hsent⟩ := BusPhase.next_frame_counts (hph ▸ hnext)
    obtain ⟨ihsent, ihopen⟩ := ih hes
    simp only [List.countP_append, List.count_append]
    omega

/-- Settles O42: the invariant's trace ends outside any transaction, so each begin runs through its frame and nothing is
left over in the counts. -/
theorem framesAreWhole : Obligations.FramesAreWhole := by
  intro s hinv
  obtain ⟨htransfers, hbegins⟩ := frame_counts_of_busPhase hinv.bus
  rw [expectedPhase_sentBytes] at htransfers
  rw [expectedPhase_openTxns] at hbegins
  refine ⟨fun before later k htrace => ?_, htransfers, hbegins⟩
  exact frame_of_opened (foldl_later_of_txnBegin (htrace ▸ hinv.bus)) (expectedPhase_openTxns s)

end Sys2Proof.Machine

/-! PROOFS. The family of 30_encoding.md: the decoder and the encoder against each other (R80 to R86, R91), the reserved
words (R85), the one answer of a command (R87), and the event stream (R88). -/

namespace Sys2Proof.Machine

/-! ## What a word decodes to (R81, R82, R84) -/

theorem withSelector_eq_instr_iff {sel : BitVec 2} {f : Selector → Instr} {i : Instr} :
    withSelector sel f = .instr i ↔ ∃ c, decodeSelector sel = some c ∧ f c = i := by
  unfold withSelector; cases decodeSelector sel <;> simp

theorem withChannel_eq_instr_iff {sel : BitVec 2} {f : Channel → Instr} {i : Instr} :
    withChannel sel f = .instr i ↔ ∃ c, decodeChannel sel = some c ∧ f c = i := by
  unfold withChannel; cases decodeChannel sel <;> simp

/-- The fields of the word hold the command's operands, as R82 reads them. -/
def CarriesOperands (w : CommandWord) : Instr → Prop
  | .init V g => V = (immField w).toInt ∧ g = (auxField w).toInt
  | .set sel code => decodeSelector (selField w) = some sel ∧ code = (immField w).toInt
  | .get ch => decodeChannel (selField w) = some ch
  | .update => True
  | .clear => True
  | .toVolt code => code = (immField w).toInt
  | .toCode V => V = (immField w).toInt
  | .setV sel V => decodeSelector (selField w) = some sel ∧ V = (immField w).toInt
  | .setVref V => V = (immField w).toInt
  | .setGain g => g = (auxField w).toInt
  | .setClk k => immField w = k
  | .teardown => True

/-- R84: a word decodes to a command exactly when it carries the command's opcode and its operands. -/
theorem decode_eq_instr_iff {w : CommandWord} {i : Instr} :
    decode w = .instr i ↔ opField w = i.opcode ∧ CarriesOperands w i := by
  constructor
  · intro h
    unfold decode at h
    split at h
    case h_2 hop =>
      obtain ⟨c, hc, rfl⟩ := withSelector_eq_instr_iff.1 h
      exact ⟨BitVec.eq_of_toNat_eq hop, hc, rfl⟩
    case h_3 hop =>
      obtain ⟨c, hc, rfl⟩ := withChannel_eq_instr_iff.1 h
      exact ⟨BitVec.eq_of_toNat_eq hop, hc⟩
    case h_8 hop =>
      obtain ⟨c, hc, rfl⟩ := withSelector_eq_instr_iff.1 h
      exact ⟨BitVec.eq_of_toNat_eq hop, hc, rfl⟩
    case h_13 => cases h
    all_goals
      rename_i hop
      cases h
      exact ⟨BitVec.eq_of_toNat_eq hop, by simp [CarriesOperands]⟩
  · rintro ⟨hop, hcarries⟩
    cases i <;> simp_all [decode, Instr.opcode, CarriesOperands, withSelector, withChannel]

/-! ## Decoding an encoding -/

/-- Every encoding carries its opcode and keeps to its format's fields: the laws per command, gathered. -/
theorem opcodeField_statement (i : Instr) : Laws.OpcodeField.Statement i := by
  cases i with
  | init V g => exact Laws.OpcodeField.init V g
  | set sel code => exact Laws.OpcodeField.set sel code
  | get ch => exact Laws.OpcodeField.get ch
  | update => exact Laws.OpcodeField.update
  | clear => exact Laws.OpcodeField.clear
  | toVolt code => exact Laws.OpcodeField.toVolt code
  | toCode V => exact Laws.OpcodeField.toCode V
  | setV sel V => exact Laws.OpcodeField.setV sel V
  | setVref V => exact Laws.OpcodeField.setVref V
  | setGain g => exact Laws.OpcodeField.setGain g
  | setClk k => exact Laws.OpcodeField.setClk k
  | teardown => exact Laws.OpcodeField.teardown

/-- R82 b, c: `imm` holds every code and voltage in its range. -/
theorem immField_carries {x : Int} (h : fitsImm x = true) (op : BitVec 4) (sel : BitVec 2) (aux : BitVec 8) :
    x = (immField (commandWord op sel aux (BitVec.ofInt 32 x))).toInt := by
  simp only [fitsImm, Bool.and_eq_true, decide_eq_true_eq] at h
  rw [immField_commandWord, toInt_ofInt_of_bounds (by omega) (by omega)]

/-- R82 d: `aux` holds every gain in its range. -/
theorem auxField_carries {x : Int} (h : fitsAux x = true) (op : BitVec 4) (sel : BitVec 2) (imm : BitVec 32) :
    x = (auxField (commandWord op sel (BitVec.ofInt 8 x) imm)).toInt := by
  simp only [fitsAux, Bool.and_eq_true, decide_eq_true_eq] at h
  rw [auxField_commandWord, toInt_ofInt_of_bounds (by omega) (by omega)]

/-- R82: no operand of a well-formed command loses a bit. -/
theorem carriesOperands_encode {i : Instr} (h : i.wellFormed = true) : CarriesOperands (encode i) i := by
  cases i with
  | init V g =>
    obtain ⟨hV, hg⟩ := Bool.and_eq_true_iff.1 h
    exact ⟨immField_carries hV _ _ _, auxField_carries hg _ _ _⟩
  | set sel code => exact ⟨by simp [encode], immField_carries h _ _ _⟩
  | get ch => simp [CarriesOperands, encode]
  | toVolt code => exact immField_carries h _ _ _
  | toCode V => exact immField_carries h _ _ _
  | setV sel V => exact ⟨by simp [encode], immField_carries h _ _ _⟩
  | setVref V => exact immField_carries h _ _ _
  | setGain g => exact auxField_carries h _ _ _
  | setClk k => exact immField_commandWord _ _ _ _
  | update | clear | teardown => trivial

/-- Settles O2: an encoding carries its command's opcode and, the command being well formed, its operands. -/
theorem decodeInvertsEncode : Obligations.DecodeInvertsEncode :=
  fun i hwf => decode_eq_instr_iff.2 ⟨(opcodeField_statement i).1, carriesOperands_encode hwf⟩

/-! ## Encoding a decoded command -/

theorem wellFormed_of_carriesOperands {w : CommandWord} {i : Instr} (h : CarriesOperands w i) :
    i.wellFormed = true := by
  have himm := fitsImm_toInt (immField w)
  have haux := fitsAux_toInt (auxField w)
  cases i <;> simp_all [CarriesOperands, Instr.wellFormed]

/-! The masks of `usedBits`, as its definition writes them -/

@[simp] theorem op_and_mask (x : BitVec 4) : x &&& 0xF#4 = x := BitVec.and_allOnes

@[simp] theorem sel_and_mask (x : BitVec 2) : x &&& 3#2 = x := BitVec.and_allOnes

@[simp] theorem aux_and_mask (x : BitVec 8) : x &&& 0xFF#8 = x := BitVec.and_allOnes

@[simp] theorem imm_and_mask (x : BitVec 32) : x &&& 0xFFFFFFFF#32 = x := BitVec.and_allOnes

/-- R81: the fields a format uses are those its operands are read from, and the selectors come from their own bits. -/
theorem encode_eq_and_usedBits {w : CommandWord} {i : Instr} (hop : opField w = i.opcode)
    (h : CarriesOperands w i) : encode i = w &&& usedBits (opField w) := by
  have hsel := @encodeSelector_of_decodeSelector (selField w)
  have hch := @encodeChannel_of_decodeChannel (selField w)
  cases i <;> simp_all [CarriesOperands, encode, usedBits, Instr.opcode, and_commandWord]

/-- Settles O3: what is known of such a word is its opcode and operands, and both parts follow from these. -/
theorem encodeInvertsDecodeOnUsedFields : Obligations.EncodeInvertsDecodeOnUsedFields := by
  intro w i hdec
  obtain ⟨hop, hcarries⟩ := decode_eq_instr_iff.1 hdec
  exact ⟨wellFormed_of_carriesOperands hcarries, encode_eq_and_usedBits hop hcarries⟩

/-! ## The fields a format does not use (R86) -/

/-- Every format uses `op` (R81). -/
theorem opField_and_usedBits (w : CommandWord) (op : BitVec 4) : opField (w &&& usedBits op) = opField w := by
  unfold usedBits; split <;> simp [and_commandWord]

/-- R86: the decoder reads nothing but the used fields. -/
theorem decode_and_usedBits (w : CommandWord) : decode (w &&& usedBits (opField w)) = decode w := by
  unfold decode
  rw [opField_and_usedBits]
  split <;> rename_i hop <;> simp [usedBits, hop, and_commandWord]

/-- Settles O4: equal used fields include equal opcodes, so both words decode as the one masked word. -/
theorem unusedFieldsAreIgnored : Obligations.UnusedFieldsAreIgnored := by
  refine ⟨fun w w' h => ?_, by decide, fun i => (opcodeField_statement i).2, by decide⟩
  have hop : opField w' = opField w := by
    rw [← opField_and_usedBits w' (opField w), ← h, opField_and_usedBits]
  calc decode w' = decode (w' &&& usedBits (opField w')) := (decode_and_usedBits w').symm
    _ = decode (w &&& usedBits (opField w)) := by rw [hop, h]
    _ = decode w := decode_and_usedBits w

/-! ## Reserved words (R85) -/

theorem withSelector_reserved_iff {sel : BitVec 2} {f : Selector → Instr} :
    (∃ why, withSelector sel f = .reserved why) ↔ sel.toNat = 0 := by
  have hnone : decodeSelector sel = none ↔ sel.toNat = 0 := by decide +revert
  rw [← hnone]; unfold withSelector; cases decodeSelector sel <;> simp

theorem withChannel_reserved_iff {sel : BitVec 2} {f : Channel → Instr} :
    (∃ why, withChannel sel f = .reserved why) ↔ sel.toNat = 0 ∨ sel.toNat = 3 := by
  have hnone : decodeChannel sel = none ↔ sel.toNat = 0 ∨ sel.toNat = 3 := by decide +revert
  rw [← hnone]; unfold withChannel; cases decodeChannel sel <;> simp

theorem opField_toNat (w : CommandWord) : (opField w).toNat = w.toNat / 2 ^ 44 := by
  have := w.isLt
  simp only [opField, BitVec.extractLsb'_toNat, Nat.shiftRight_eq_div_pow]
  omega

theorem selField_toNat (w : CommandWord) : (selField w).toNat = w.toNat / 2 ^ 42 % 4 := by
  simp only [selField, BitVec.extractLsb'_toNat, Nat.shiftRight_eq_div_pow]

/-- R85: the reserved words, by opcode and selector. -/
theorem decode_reserved_iff (w : CommandWord) :
    (∃ why, decode w = .reserved why) ↔
      (opField w).toNat = 0x0 ∨ (opField w).toNat = 0xD ∨ (opField w).toNat = 0xE ∨ (opField w).toNat = 0xF ∨
        (((opField w).toNat = 0x2 ∨ (opField w).toNat = 0x8) ∧ (selField w).toNat = 0) ∨
        ((opField w).toNat = 0x3 ∧ ((selField w).toNat = 0 ∨ (selField w).toNat = 3)) := by
  have hlt := (opField w).isLt
  unfold decode
  split
  case h_13 =>
    simp only [Decoded.reserved.injEq, exists_eq', true_iff, imp_false] at *
    omega
  all_goals rename_i hop; simp [hop, withSelector_reserved_iff, withChannel_reserved_iff]

/-- R85, D9: an accepted reserved word only answers, whatever the environment does. -/
theorem execReserved_next_iff {s t : State} : execReserved s = .next t ↔ Accepts s ∧ t = s.respond 0 := by
  rw [execReserved, accept_next_iff]
  constructor
  · rintro ⟨hvalid, halive, -, ht⟩; exact ⟨⟨hvalid, halive⟩, ht⟩
  · rintro ⟨⟨hvalid, halive⟩, ht⟩; exact ⟨hvalid, halive, by simp [capabilitiesComplete], ht⟩

theorem step_of_reserved {s : State} {w : CommandWord} {rest : List Input} {why : Reserved}
    (hin : s.inputs = .command w :: rest) (hdec : decode w = .reserved why) :
    step s = execReserved { s with inputs := rest } := by
  rw [step_of_command hin, hdec]; rfl

/-- Settles O5: the decoder's own fields are R85's quotients of the word, and the no-op emits nothing to wait for. -/
theorem reservedWordsAreNoOps : Obligations.ReservedWordsAreNoOps := by
  intro w
  refine ⟨?_, fun s rest why haccepts hdec hin => ?_⟩
  · simpa only [opField_toNat, selField_toNat] using decode_reserved_iff w
  · rw [step_of_reserved hin hdec]
    exact execReserved_next_iff.2 ⟨⟨haccepts.pins_valid, haccepts.alive⟩, rfl⟩

/-! ## The answer of a command (R87) -/

theorem answerOf_get (ch : Channel) (s : State) : (answerOf (.get ch) s).toNat = (s.channel ch).toNat := by
  have := (s.channel ch).isLt
  simp only [answerOf, BitVec.toNat_setWidth]
  omega

/-- R151: the product of a 32-bit code and a 24-bit scale fits the response. -/
theorem answerOf_toVolt {code : Int} (h : fitsImm code = true) (s : State) :
    (answerOf (.toVolt code) s).toInt = code * s.fullScale := by
  simp only [fitsImm, Bool.and_eq_true, decide_eq_true_eq] at h
  have hnonneg := fullScale_nonneg s
  have hlt := fullScale_lt s
  apply response_toInt <;> unfold codeToVolt <;> nlinarith

/-- R152: with `D` not 0 the converted code fits the response. -/
theorem answerOf_toCode {V : Int} (h : fitsImm V = true) {s : State} (hD : s.fullScale ≠ 0) :
    (answerOf (.toCode V) s).toInt = voltToCode s.fullScale V := by
  simp only [fitsImm, Bool.and_eq_true, decide_eq_true_eq] at h
  have hbound := voltToCode_bound (V := V) (by omega) (lt_of_le_of_ne (fullScale_nonneg s) hD.symm)
  rw [abs_le] at hbound
  simp only [answerOf, convert_of_ne s V hD]
  exact response_toInt (by omega) (by omega)

theorem answerOf_other {i : Instr} (hget : ∀ ch, i ≠ .get ch) (hvolt : ∀ code, i ≠ .toVolt code)
    (hcode : ∀ V, i ≠ .toCode V) (s : State) : answerOf i s = 0 := by
  cases i with
  | get ch => exact absurd rfl (hget ch)
  | toVolt code => exact absurd rfl (hvolt code)
  | toCode V => exact absurd rfl (hcode V)
  | _ => rfl

/-- Settles O50: the one response is `answerOf`, and a reserved word's is 0. -/
theorem oneAnswerPerCommand : Obligations.OneAnswerPerCommand := by
  refine ⟨fun i s t hwf hexec => ?_, fun s t w rest why hin hdec hstep => ?_⟩
  · obtain ⟨-, -, rfl⟩ := (exec_next_iff i s t).1 hexec
    refine ⟨answerOf i s, after_responses i s, ?_, ?_, ?_, ?_,
      fun hget hvolt hcode => answerOf_other hget hvolt hcode s⟩
    · rintro rfl; exact answerOf_get .a s
    · rintro rfl; exact answerOf_get .b s
    · rintro code rfl
      rw [answerOf_toVolt hwf, State.fullScale, mul_assoc]
    · rintro V rfl hD
      rw [answerOf_toCode hwf (by unfold State.fullScale; exact_mod_cast hD)]
      rfl
  · rw [step_of_reserved hin hdec] at hstep
    obtain ⟨-, rfl⟩ := execReserved_next_iff.1 hstep
    rfl

/-! ## The event stream (R88) -/

theorem pinArg_toNat (p : PinId) (flag : Bool) : (pinArg p flag).toNat = p.toNat + 256 * flag.toNat := by
  rw [pinArg, BitVec.toNat_setWidth_of_le (by decide), BitVec.toNat_append, ← Nat.shiftLeft_add_eq_or_of_lt p.isLt,
    Nat.shiftLeft_eq, BitVec.toNat_ofBool]
  omega

/-- The event an encoding was sent for; the kinds are R88's. -/
def eventOfEncoded (x : BitVec 4 × BitVec 32) : Event :=
  match x.1.toNat with
  | 1 => .busBegin
  | 2 => .busEnd
  | 3 => .txnBegin x.2
  | 4 => .transfer (x.2.setWidth 8)
  | 5 => .txnEnd
  | 6 => .pinMode (x.2.setWidth 8)
  | _ => .pinLevel (x.2.setWidth 8) (if x.2.getLsbD 8 then .high else .low)

theorem pinArg_setWidth (p : PinId) (flag : Bool) : (pinArg p flag).setWidth 8 = p := by
  apply BitVec.eq_of_toNat_eq
  have := p.isLt
  rw [BitVec.toNat_setWidth, pinArg_toNat]
  omega

theorem pinArg_getLsbD (p : PinId) (flag : Bool) : (pinArg p flag).getLsbD 8 = flag := by
  rw [pinArg, BitVec.getLsbD_setWidth, BitVec.getLsbD_append]
  simp

/-- R88: what is sent tells the event. -/
theorem eventOfEncoded_of_encoded {e : Event} {x : BitVec 4 × BitVec 32} (h : e.encoded = some x) :
    eventOfEncoded x = e := by
  cases e with
  | delay n => cases h
  | transfer b => cases h; simp [eventOfEncoded]
  | pinMode p => cases h; simp [eventOfEncoded, pinArg_setWidth]
  | pinLevel p l => cases h; cases l <;> simp only [eventOfEncoded, pinArg_setWidth, pinArg_getLsbD] <;> rfl
  | _ => cases h; rfl

theorem kind_range_of_encoded {e : Event} {k : BitVec 4} {a : BitVec 32} (h : e.encoded = some (k, a)) :
    1 ≤ k.toNat ∧ k.toNat ≤ 7 := by
  cases e <;> cases h <;> decide

/-- Settles O7: the arguments are computed kind by kind, and `eventOfEncoded` is a left inverse, hence injectivity. -/
theorem eventStreamEncoding : Obligations.EventStreamEncoding := by
  refine ⟨fun k b p => ?_, fun n => rfl, fun e k a => kind_range_of_encoded, fun e f x he hf => ?_⟩
  · refine ⟨rfl, rfl, rfl, ⟨_, rfl, ?_⟩, rfl, ⟨_, rfl, pinArg_toNat p true⟩,
      ⟨_, rfl, pinArg_toNat p false⟩, ⟨_, rfl, pinArg_toNat p true⟩⟩
    exact BitVec.toNat_setWidth_of_le (by decide)
  · rw [← eventOfEncoded_of_encoded he, eventOfEncoded_of_encoded hf]

/-! ## The worked encodings (R91) -/

/-- Settles O1: the table is finite and the model evaluates it. -/
theorem workedEncodingsDecode : Obligations.WorkedEncodingsDecode :=
  ⟨by decide, ⟨_, rfl⟩, ⟨_, rfl⟩⟩

end Sys2Proof.Machine

/-! PROOFS. The family of 40_lifecycle.md: INIT (R111, R112), TEARDOWN (R113), the destroyed block (R114), what the
flags gate and who writes them (R110, R115), and what does not depend on the lifecycle at all (R150). -/

namespace Sys2Proof.Machine

/-! ## INIT (R111, R112) -/

/-- INIT's events as R111 lists them, the frame of the electrical clear written out (R142). -/
theorem initEvents_eq (s : State) :
    initEvents s = (if s.initialized then [] else [.busBegin]) ++
      [.pinMode s.pins.csPin, .pinLevel s.pins.csPin .high] ++
      (if s.pins.clrPresent then
        [.pinMode s.pins.clrPin, .pinLevel s.pins.clrPin .high,
         .pinLevel s.pins.clrPin .low, .delay 10, .pinLevel s.pins.clrPin .high]
      else
        [.txnBegin s.clk, .pinLevel s.pins.csPin .low, .transfer 0x00, .transfer 0x00, .transfer 0x00,
         .pinLevel s.pins.csPin .high, .txnEnd]) := by
  cases hclr : s.pins.clrPresent <;>
    simp [initEvents, setupEvents, clearChipEvents, lineSetup, frameEvents, Config.clrHoldUnits, hclr]

/-- Settles O8: a ready block runs INIT whole, and the parameters are stored through the clamps. -/
theorem initAcquiresSetsUpAndClears : Obligations.InitAcquiresSetsUpAndClears := by
  intro s V g hready
  refine ⟨clampVref V, clampGain g, ?_, clampVref_toNat V, clampGain_toNat g⟩
  have htrace := congrArg (s.trace ++ ·) (initEvents_eq s)
  simp only [← List.append_assoc] at htrace
  rw [exec_of_ready hready, ← htrace]
  rfl

/-- A later INIT finds the bus acquired, and neither the set-up nor the clear acquires it (R112). -/
theorem busBegin_notMem_initEvents {s : State} (hinit : s.initialized = true) : .busBegin ∉ initEvents s := by
  rw [initEvents_eq]
  cases s.pins.clrPresent <;> simp [hinit]

/-- R112: a live, initialized block has acquired the bus once. -/
theorem BlockInv.count_busBegin {s : State} (h : BlockInv s) (hinit : s.initialized = true)
    (halive : s.destroyed = false) : s.trace.count .busBegin = 1 :=
  (counts_of_busPhase (h.idle hinit halive).bus).1

/-- Settles O9: the trace held one BusBegin, and the events of a second INIT add none. -/
theorem secondInitDoesNotReacquire : Obligations.SecondInitDoesNotReacquire := by
  intro s V g hready hinv hinit
  have hnone := busBegin_notMem_initEvents hinit
  refine ⟨_, initEvents s, exec_of_ready hready _, after_trace _ s, hnone, ?_, ?_, ?_, rfl, rfl,
    clampVref_toNat V, clampGain_toNat g, rfl⟩
  · rw [after_trace, List.count_append, hinv.count_busBegin hinit hready.alive]
    exact congrArg (1 + ·) (List.count_eq_zero.2 hnone)
  · simp [initEvents_eq]
  · intro hclr
    simp [initEvents_eq, hclr]

/-! ## TEARDOWN and the destroyed block (R113, R114) -/

theorem exec_of_destroyed {s : State} (hvalid : s.pins.valid = true) (hgone : s.destroyed = true) (i : Instr) :
    exec i s = .refused .destroyed := by
  rw [exec_eq_accept, accept_destroyed hvalid hgone]

/-- R114: no word is accepted, whether it is a command or reserved. -/
theorem runDecoded_of_destroyed {s : State} (hvalid : s.pins.valid = true) (hgone : s.destroyed = true)
    (d : Decoded) : runDecoded exec d s = .refused .destroyed := by
  cases d with
  | instr i => exact exec_of_destroyed hvalid hgone i
  | reserved why => rw [runDecoded, execReserved, accept_destroyed hvalid hgone]

/-- Settles O11: TEARDOWN waits for the capabilities only where it emits BusEnd, and it leaves a destroyed block. -/
theorem teardownReleasesBusOnce : Obligations.TeardownReleasesBusOnce := by
  intro s haccepts hcapable
  have hcompletes : (s.capabilitiesAnswer || (eventsOf .teardown s).isEmpty) = true := by
    cases hinit : s.initialized with
    | false => simp [eventsOf, teardownEvents, hinit]
    | true => simp [hcapable hinit]
  refine ⟨after .teardown s, (exec_next_iff _ _ _).2 ⟨haccepts, hcompletes, rfl⟩, rfl, ?_⟩
  exact exec_of_destroyed (by rw [after_pins, haccepts.pins_valid]) (after_teardown_destroyed s) _

theorem step_of_reset {s : State} {pins : PinConfig} {rest : List Input} (h : s.inputs = .reset pins :: rest) :
    step s = State.assertReset { s with inputs := rest } pins := by
  simp only [step, h]

theorem assertReset_of_valid {pins : PinConfig} (hvalid : pins.valid = true) (s : State) :
    s.assertReset pins = .next { State.resetWith pins Config.clkReset with
      capabilitiesAnswer := s.capabilitiesAnswer, inputs := s.inputs, draws := s.draws } :=
  if_pos hvalid

/-- Settles O12: every word meets the refusal of `accept`, and a reset is not a word. -/
theorem destroyedBlockAcceptsNothing : Obligations.DestroyedBlockAcceptsNothing := by
  intro s hvalid hgone
  refine ⟨by simp [State.cmdReady, hgone], exec_of_destroyed hvalid hgone, fun w rest => ?_, fun p rest hp => ?_⟩
  · rw [step_of_command rfl]
    exact runDecoded_of_destroyed (s := { s with inputs := rest }) hvalid hgone _
  · exact ⟨_, (step_of_reset rfl).trans (assertReset_of_valid hp _), rfl, rfl⟩

/-! ## What the flags gate, and who writes them (R110, R115) -/

/-- Settles O13: before INIT the events of any other command are none. -/
theorem onlyInitEmitsBeforeInit : Obligations.OnlyInitEmitsBeforeInit := by
  intro i s t hinit hexec
  obtain ⟨-, -, rfl⟩ := (exec_next_iff i s t).1 hexec
  by_cases hi : ∃ V g, i = .init V g
  · exact .inr hi
  · have hsilent := eventsOf_eq_nil_of_uninitialized (fun V g he => hi ⟨V, g, he⟩) hinit
    exact .inl (by rw [after_trace, hsilent, List.append_nil])

/-- Settles O14: each flag has its one writer and is never cleared, and the command was accepted, so the block was not
destroyed before. -/
theorem flagsChangeOnlyByInitAndTeardown : Obligations.FlagsChangeOnlyByInitAndTeardown := by
  intro i s t hexec
  obtain ⟨haccepts, -, rfl⟩ := (exec_next_iff i s t).1 hexec
  refine ⟨⟨fun h => ?_, ?_⟩, ⟨fun h => ?_, ?_⟩⟩
  · by_contra hnot
    obtain ⟨hbefore, hi⟩ := not_or.1 hnot
    exact hi (writer_of_initialized_ne fun heq => hbefore (heq ▸ h))
  · rintro (h | ⟨V, g, rfl⟩)
    · exact (after_keeps_flags i s).1 h
    · exact after_init_initialized V g s
  · exact writer_of_destroyed_ne (by rw [h, haccepts.alive]; decide)
  · rintro rfl
    exact after_teardown_destroyed s

/-! ## What does not depend on the lifecycle (R150) -/

/-- The fields a command's stored registers and its answer are computed from. -/
structure SameRegisters (s s' : State) : Prop where
  chA : s.chA = s'.chA
  chB : s.chB = s'.chB
  vref : s.vref = s'.vref
  gain : s.gain = s'.gain
  draws : s.draws = s'.draws

section
variable {s s' : State}

theorem SameRegisters.fullScale_eq (h : SameRegisters s s') : s.fullScale = s'.fullScale := by
  simp only [State.fullScale, h.vref, h.gain]

/-- The converted value is one, with `D = 0` too: equal draw counters draw one free value (log entry 6), and both
counters move on. -/
theorem SameRegisters.convert (h : SameRegisters s s') (V : Int) :
    (s.convert V).1 = (s'.convert V).1 ∧ SameRegisters (s.convert V).2 (s'.convert V).2 := by
  by_cases hD : s.fullScale = 0
  · rw [convert_of_zero s V hD, convert_of_zero s' V (h.fullScale_eq ▸ hD)]
    exact ⟨by simp only [State.draw, h.draws], h.chA, h.chB, h.vref, h.gain, congrArg (· + 1) h.draws⟩
  · rw [convert_of_ne s V hD, convert_of_ne s' V (h.fullScale_eq ▸ hD)]
    exact ⟨by simp only [h.fullScale_eq], h⟩

theorem SameRegisters.setChannels (h : SameRegisters s s') (sel : Selector) (v : Code) :
    SameRegisters (s.setChannels sel v) (s'.setChannels sel v) :=
  ⟨by simp [h.chA], by simp [h.chB], h.vref, h.gain, h.draws⟩

theorem SameRegisters.registersAfter (h : SameRegisters s s') (i : Instr) :
    SameRegisters (registersAfter i s) (registersAfter i s') := by
  cases i with
  | init V g => exact ⟨rfl, rfl, rfl, rfl, h.draws⟩
  | clear => exact ⟨rfl, rfl, h.vref, h.gain, h.draws⟩
  | set sel code => exact h.setChannels sel _
  | toCode V => exact (h.convert V).2
  | setV sel V =>
    obtain ⟨hvalue, hconverted⟩ := h.convert V
    simpa only [Machine.registersAfter, hvalue] using hconverted.setChannels sel _
  | setVref V => exact ⟨h.chA, h.chB, rfl, h.gain, h.draws⟩
  | setGain g => exact ⟨h.chA, h.chB, h.vref, rfl, h.draws⟩
  | _ => exact ⟨h.chA, h.chB, h.vref, h.gain, h.draws⟩

theorem SameRegisters.answerOf_eq (h : SameRegisters s s') (i : Instr) : answerOf i s = answerOf i s' := by
  cases i with
  | get ch => cases ch <;> simp only [answerOf, State.channel, h.chA, h.chB]
  | toVolt code => simp only [answerOf, h.fullScale_eq]
  | toCode V => simp only [answerOf, (h.convert V).1]
  | _ => rfl

end

/-- Settles O52: both the registers and the answer are computed from the shared fields alone. -/
theorem registersDoNotDependOnLifecycle : Obligations.RegistersDoNotDependOnLifecycle := by
  intro i s s' t t' hchA hchB hvref hgain hdraws hexec hexec'
  obtain ⟨-, -, rfl⟩ := (exec_next_iff i s t).1 hexec
  obtain ⟨-, -, rfl⟩ := (exec_next_iff i s' t').1 hexec'
  have hsame : SameRegisters s s' := ⟨hchA, hchB, hvref, hgain, hdraws⟩
  obtain ⟨hchA', hchB', hvref', hgain', -⟩ := hsame.registersAfter i
  exact ⟨hchA', hchB', hvref', hgain', answerOf i s, after_responses i s,
    hsame.answerOf_eq i ▸ after_responses i s'⟩

end Sys2Proof.Machine

/-! PROOFS. The family of 41_channel_access.md: SET (R120, R123), GET (R121) and the clamp law between them (R122). -/

namespace Sys2Proof.Machine

/-! ## The channel registers by name (R12, R21) -/

@[simp] theorem respond_channel (s : State) (r : Response) (ch : Channel) :
    (s.respond r).channel ch = s.channel ch := by
  cases ch <;> rfl

@[simp] theorem setChannels_channel (s : State) (sel : Selector) (v : Code) (ch : Channel) :
    (s.setChannels sel v).channel ch = if sel.covers ch then v else s.channel ch := by
  cases ch <;> rfl

/-! ## SET and GET as one update each -/

/-- A command without events only leaves its registers and answers. -/
theorem after_of_silent {i : Instr} {s : State} (h : eventsOf i s = []) :
    after i s = (registersAfter i s).respond (answerOf i s) := by
  rw [after, h, emit_nil]

/-- R120: SET emits nothing, so it completes whatever the environment does. -/
theorem exec_set_of_accepts {s : State} (h : Accepts s) (sel : Selector) (code : Int) :
    exec (.set sel code) s = .next ((s.setChannels sel (clampCode code)).respond 0) := by
  rw [exec_of_silent h rfl, after_of_silent rfl]
  rfl

/-- R121: GET emits nothing and writes nothing. -/
theorem exec_get_of_accepts {s : State} (h : Accepts s) (ch : Channel) :
    exec (.get ch) s = .next (s.respond (answerOf (.get ch) s)) := by
  rw [exec_of_silent h rfl, after_of_silent rfl]
  rfl

/-- SET keeps what acceptance reads, so the next command is accepted too. -/
theorem Accepts.set {s : State} (h : Accepts s) (sel : Selector) (v : Code) (r : Response) :
    Accepts ((s.setChannels sel v).respond r) :=
  ⟨h.pins_valid, h.alive⟩

/-- Settles O15: the two stored codes are those of `setChannels`, selector by selector. -/
theorem setStoresClampedCode : Obligations.SetStoresClampedCode := by
  intro s sel code haccepts
  have hclamp := clampCode_toNat code
  refine ⟨(s.setChannels sel (clampCode code)).chA, (s.setChannels sel (clampCode code)).chB,
    exec_set_of_accepts haccepts sel code, ?_⟩
  cases sel with
  | a => exact ⟨fun _ => hclamp, by simp, by simp, fun _ => rfl⟩
  | b => exact ⟨by simp, fun _ => rfl, fun _ => hclamp, by simp⟩
  | both => exact ⟨fun _ => hclamp, by simp, fun _ => hclamp, by simp⟩

/-- Settles O16: the answer is the register, zero-extended. -/
theorem getAnswersRegister : Obligations.GetAnswersRegister := by
  intro s ch haccepts
  refine ⟨answerOf (.get ch) s, exec_get_of_accepts haccepts ch, ?_, ?_⟩
  · rintro rfl; exact answerOf_get .a s
  · rintro rfl; exact answerOf_get .b s

/-! ## The clamp law (R122, R123) -/

/-- Zero-extended to 64 bits a code is never negative as two's complement (R87). -/
theorem answerOf_get_toInt (ch : Channel) (s : State) :
    (answerOf (.get ch) s).toInt = ((s.channel ch).toNat : Int) := by
  have hlt := (s.channel ch).isLt
  have hanswer := answerOf_get ch s
  rw [BitVec.toInt_eq_toNat_of_lt (by omega), hanswer]

/-- Settles O17: GET reads the clamped code SET stored in the channel. -/
theorem setThenGetClamps : Obligations.SetThenGetClamps := by
  intro s sel ch c haccepts hcovers
  refine ⟨_, _, _, exec_set_of_accepts haccepts sel c, exec_get_of_accepts (haccepts.set sel _ _) ch,
    respond_responses _ _, ?_⟩
  rw [answerOf_get_toInt, respond_channel, setChannels_channel, if_pos hcovers, clampCode_toNat]
  split <;> omega

/-- R123: the whole operand is clamped, so none past the top is told from another. -/
theorem clampCode_of_ge {c : Int} (h : 4095 ≤ c) : clampCode c = 4095 := by
  have hclamp := clampCode_toNat c
  have htop : (clampCode c).toNat = 4095 := by omega
  exact BitVec.eq_of_toNat_eq htop

/-- R120: of its operand SET uses the clamped code only, in states that refuse it too. -/
theorem exec_set_congr {c d : Int} (h : clampCode c = clampCode d) (sel : Selector) (s : State) :
    exec (.set sel c) s = exec (.set sel d) s := by
  simp only [exec_eq_accept, registersAfter, eventsOf, answerOf, h]

/-- Settles O18: both operands clamp to the top code. -/
theorem setClampsBeforeWrite : Obligations.SetClampsBeforeWrite := by
  intro s sel x hx
  exact exec_set_congr ((clampCode_of_ge (by omega)).trans (clampCode_of_ge le_rfl).symm) sel s

end Sys2Proof.Machine

/-! PROOFS. The family of 42_update.md: the packing law and its inverse (R130, R131), UPDATE (R132, R133), and the bits
it puts on the data-out line (R134). -/

namespace Sys2Proof.Machine

/-! ## The packing law (R130) -/

/-- Two fields side by side: the lower one fits below the shifted upper one. -/
theorem shiftLeft_or_eq_mul_add {y n : Nat} (h : y < 2 ^ n) (x : Nat) : x <<< n ||| y = x * 2 ^ n + y := by
  rw [← Nat.shiftLeft_add_eq_or_of_lt h, Nat.shiftLeft_eq]

theorem and_lowNibble (x : Nat) : x &&& 0xF = x % 16 := Nat.and_two_pow_sub_one_eq_mod x 4

theorem and_lowByte (x : Nat) : x &&& 0xFF = x % 256 := Nat.and_two_pow_sub_one_eq_mod x 8

/-- The low four bits of one code and the high four of the other fill the middle byte (R59). -/
theorem middleByte_toNat {x y : Nat} (hy : y < 4096) :
    (x &&& 0xF) <<< 4 ||| y >>> 8 = x % 16 * 16 + y / 256 := by
  rw [and_lowNibble, Nat.shiftRight_eq_div_pow, shiftLeft_or_eq_mul_add (by omega)]
  rfl

section
variable (a b : Code)

theorem pack_toNat_shifts :
    (pack a b).1.toNat = a.toNat >>> 4 ∧
    (pack a b).2.1.toNat = (a.toNat &&& 0xF) <<< 4 ||| b.toNat >>> 8 ∧
    (pack a b).2.2.toNat = b.toNat &&& 0xFF := by
  have ha := a.isLt
  have hb := b.isLt
  refine ⟨?_, ?_, ?_⟩
  · simp only [pack, BitVec.toNat_setWidth, BitVec.toNat_ushiftRight, Nat.shiftRight_eq_div_pow]
    omega
  · have hfits : (a.toNat &&& 0xF) <<< 4 < 4096 := by rw [and_lowNibble, Nat.shiftLeft_eq]; omega
    simp only [pack, BitVec.toNat_setWidth, BitVec.toNat_or, BitVec.toNat_shiftLeft, BitVec.toNat_and,
      BitVec.toNat_ushiftRight, BitVec.reduceToNat, Nat.reducePow]
    rw [Nat.mod_eq_of_lt hfits, middleByte_toNat hb]
    omega
  · simp only [pack, BitVec.toNat_setWidth, BitVec.toNat_and, BitVec.reduceToNat, and_lowByte]
    omega

/-- The bytes as arithmetic of the codes, the spelling the other proofs use. -/
theorem pack_toNat :
    (pack a b).1.toNat = a.toNat / 16 ∧ (pack a b).2.1.toNat = a.toNat % 16 * 16 + b.toNat / 256 ∧
    (pack a b).2.2.toNat = b.toNat % 256 := by
  obtain ⟨hfirst, hmiddle, hlast⟩ := pack_toNat_shifts a b
  refine ⟨?_, ?_, ?_⟩
  · rw [hfirst, Nat.shiftRight_eq_div_pow]
  · rw [hmiddle, middleByte_toNat b.isLt]
  · rw [hlast, and_lowByte]

end

/-- Settles O19: the shifts are the model's own, and as arithmetic the bytes are the digits of `f` to base 256. -/
theorem packingLaw : Obligations.PackingLaw := by
  intro a b f
  have hb := b.isLt
  obtain ⟨hfirst, hmiddle, hlast⟩ := pack_toNat a b
  refine ⟨pack_toNat_shifts a b, ?_, ?_, ?_⟩ <;> omega

/-! ## The inverse (R131) -/

section
variable (b1 b2 b3 : Byte)

theorem unpack_toNat_shifts :
    (unpack b1 b2 b3).1.toNat = b1.toNat <<< 4 ||| b2.toNat >>> 4 ∧
    (unpack b1 b2 b3).2.toNat = (b2.toNat &&& 0xF) <<< 8 ||| b3.toNat := by
  have h1 := b1.isLt
  have hupper : b1.toNat <<< 4 < 2 ^ 12 := by rw [Nat.shiftLeft_eq]; omega
  have hlower : (b2.toNat &&& 0xF) <<< 8 < 2 ^ 12 := by rw [and_lowNibble, Nat.shiftLeft_eq]; omega
  constructor
  · simp only [unpack, BitVec.toNat_or, BitVec.toNat_shiftLeft, BitVec.toNat_ushiftRight,
      BitVec.toNat_setWidth_of_le (show 8 ≤ 12 by decide), Nat.mod_eq_of_lt hupper]
  · simp only [unpack, BitVec.toNat_or, BitVec.toNat_shiftLeft, BitVec.toNat_and,
      BitVec.toNat_setWidth_of_le (show 8 ≤ 12 by decide), BitVec.reduceToNat, Nat.mod_eq_of_lt hlower]

/-- The codes as arithmetic of the bytes. -/
theorem unpack_toNat :
    (unpack b1 b2 b3).1.toNat = b1.toNat * 16 + b2.toNat / 16 ∧
    (unpack b1 b2 b3).2.toNat = b2.toNat % 16 * 256 + b3.toNat := by
  have h2 := b2.isLt
  obtain ⟨hA, hB⟩ := unpack_toNat_shifts b1 b2 b3
  constructor
  · rw [hA, Nat.shiftRight_eq_div_pow, shiftLeft_or_eq_mul_add (by omega)]
    rfl
  · rw [hB, and_lowNibble, shiftLeft_or_eq_mul_add b3.isLt]
    rfl

/-- R131: nothing of a frame is lost in the codes; the middle byte's halves come back together. -/
theorem pack_unpack : pack (unpack b1 b2 b3).1 (unpack b1 b2 b3).2 = (b1, b2, b3) := by
  have h2 := b2.isLt
  have h3 := b3.isLt
  obtain ⟨hA, hB⟩ := unpack_toNat b1 b2 b3
  obtain ⟨hfirst, hmiddle, hlast⟩ := pack_toNat (unpack b1 b2 b3).1 (unpack b1 b2 b3).2
  refine Prod.ext ?_ (Prod.ext ?_ ?_) <;> apply BitVec.eq_of_toNat_eq <;> dsimp only <;> omega

end

/-- Settles O20: the formula of `unpack`, and that it undoes `pack` from both sides. -/
theorem packUnpackBijection : Obligations.PackUnpackBijection :=
  ⟨unpack_toNat_shifts, unpack_pack, pack_unpack⟩

/-! ## UPDATE (R132, R133) -/

/-- R115, R186: a command other than INIT waits for the capabilities only once the block is initialized. -/
theorem exec_of_capable_if_initialized {i : Instr} {s : State} (h : Accepts s) (hi : ∀ V g, i ≠ .init V g)
    (hcapable : s.initialized = true → s.capabilitiesAnswer = true) : exec i s = .next (after i s) := by
  cases hinit : s.initialized with
  | false => exact exec_of_silent h (eventsOf_eq_nil_of_uninitialized hi hinit)
  | true => exact exec_of_ready ⟨h.pins_valid, h.alive, hcapable hinit⟩ i

/-- Settles O21: the state `after` UPDATE has the old registers and the events of one packed frame, or none. -/
theorem updateSendsOneFrame : Obligations.UpdateSendsOneFrame := by
  intro s haccepts hcapable
  have hexec := exec_of_capable_if_initialized (i := .update) haccepts (by simp) hcapable
  exact ⟨_, _, _, hexec, pack_toNat s.chA s.chB⟩

/-! ## The bits on the wire (R60, R134) -/

/-- The bits of a concatenation leave in order, the upper word's first. -/
theorem bitsMsb_append {m n : Nat} (x : BitVec m) (y : BitVec n) :
    bitsMsb (x ++ y) = bitsMsb x ++ bitsMsb y := by
  rw [bitsMsb, List.range_add, List.map_append, List.map_map]
  congr 1 <;> apply List.map_congr_left <;> intro i hi
  · simp [BitVec.getMsbD_append, List.mem_range.1 hi]
  · simp [BitVec.getMsbD_append]

/-- A code's bits from bit 11 down to bit 0. -/
theorem bitsMsb_code (c : Code) : bitsMsb c = (List.range 12).map fun i => c.getLsbD (11 - i) := by
  apply List.map_congr_left
  intro i hi
  simp [BitVec.getMsbD, List.mem_range.1 hi]

/-- R130: the three bytes, one after the other, are the two codes, one after the other. -/
theorem pack_append (a b : Code) :
    ((pack a b).1 ++ (pack a b).2.1 ++ (pack a b).2.2 : BitVec 24) = a ++ b := by
  have hb := b.isLt
  obtain ⟨hfirst, hmiddle, hlast⟩ := pack_toNat a b
  apply BitVec.eq_of_toNat_eq
  simp only [BitVec.toNat_append, shiftLeft_or_eq_mul_add (BitVec.isLt _)]
  omega

/-- Of a frame's seven events only the transfers reach the data-out line. -/
theorem wireBits_frame (cs : PinId) (clk : ClockWord) (frame : Byte × Byte × Byte) :
    wireBits (frameEvents cs clk frame) = bitsMsb frame.1 ++ bitsMsb frame.2.1 ++ bitsMsb frame.2.2 := by
  simp [wireBits, frameEvents, Event.wireBits]

theorem wireBits_frame_pack (cs : PinId) (clk : ClockWord) (a b : Code) :
    wireBits (frameEvents cs clk (pack a b)) = bitsMsb a ++ bitsMsb b := by
  rw [wireBits_frame, ← bitsMsb_append, ← bitsMsb_append, ← bitsMsb_append]
  exact congrArg bitsMsb (pack_append a b)

/-- Settles O22: the events are one frame, and its bits are those of the two codes side by side. -/
theorem updateShiftsCodesMsbFirst : Obligations.UpdateShiftsCodesMsbFirst := by
  intro s hready hinit
  refine ⟨after .update s, eventsOf .update s, exec_of_ready hready _, after_trace _ s, ?_⟩
  rw [eventsOf, updateEvents, if_pos hinit, wireBits_frame_pack, bitsMsb_code, bitsMsb_code]

end Sys2Proof.Machine

/-! PROOFS. The family of 43_clear.md: CLEAR before INIT (R143), with a clear line (R140, R141) and without one (R142),
and the one timed wait of the block (R141, R188). -/

namespace Sys2Proof.Machine

/-! ## CLEAR as one update (R140) -/

theorem after_clear (s : State) :
    after .clear s = { s with
      chA := 0, chB := 0, trace := s.trace ++ clearEvents s, responses := s.responses ++ [0] } := rfl

/-- R141: with a clear line CLEAR is the pulse on it. -/
theorem clearEvents_of_clrPresent {s : State} (hinit : s.initialized = true) (hclr : s.pins.clrPresent = true) :
    clearEvents s = [.pinLevel s.pins.clrPin .low, .delay 10, .pinLevel s.pins.clrPin .high] := by
  rw [clearEvents, if_pos hinit, clearChipEvents, if_pos hclr, Config.clrHoldUnits]

/-- R142: without a clear line CLEAR is one frame of zeroes. -/
theorem clearEvents_of_not_clrPresent {s : State} (hinit : s.initialized = true) (hclr : s.pins.clrPresent = false) :
    clearEvents s = frameEvents s.pins.csPin s.clk (0, 0, 0) := by
  rw [clearEvents, if_pos hinit, clearChipEvents, hclr, if_neg Bool.false_ne_true]

/-- Settles O23: before INIT a CLEAR emits nothing, so it completes whatever the capabilities do. -/
theorem clearBeforeInitOnlyZeroes : Obligations.ClearBeforeInitOnlyZeroes := by
  intro s haccepts hinit
  have hsilent : clearEvents s = [] := eventsOf_eq_nil_of_uninitialized (i := .clear) (by simp) hinit
  rw [exec_of_silent (i := .clear) haccepts hsilent, after_clear, hsilent, List.append_nil]

/-- Settles O24: the events are the pulse, and the invariant has the line driven HIGH before it (R35). -/
theorem clearPulsesClearLine : Obligations.ClearPulsesClearLine := by
  intro s hready hinit hclr
  refine ⟨?_, fun hinv => lineLevel_of_driven (hinv.clr_high hinit hclr)⟩
  rw [exec_of_ready hready, after_clear, clearEvents_of_clrPresent hinit hclr]

/-- Settles O25: the events are the zero frame, in which no register stands. -/
theorem clearSendsZeroFrame : Obligations.ClearSendsZeroFrame := by
  intro s hready hinit hclr
  rw [exec_of_ready hready, after_clear, clearEvents_of_not_clrPresent hinit hclr]
  rfl

/-! ## The one timed wait (R141, R188, R225) -/

/-- R226: events without a wait among them have no least time. -/
theorem sum_minTime_of_no_delay {es : List Event} (h : ∀ n, .delay n ∉ es) : (es.map Event.minTime).sum = 0 := by
  refine List.sum_eq_zero fun x hx => ?_
  obtain ⟨e, he, rfl⟩ := List.mem_map.1 hx
  cases e with
  | delay n => exact absurd he (h n)
  | _ => rfl

theorem delay_notMem_frameEvents (n : Nat) (cs : PinId) (clk : ClockWord) (frame : Byte × Byte × Byte) :
    .delay n ∉ frameEvents cs clk frame := by
  simp [frameEvents]

theorem delay_notMem_setupEvents (n : Nat) (s : State) : .delay n ∉ setupEvents s := by
  cases hclr : s.pins.clrPresent <;> simp [setupEvents, lineSetup, hclr]

/-- R141: a clear of the chip waits only by the pulse, ten time units, where there is a clear line. -/
theorem clearChipEvents_of_delay {n : Nat} {s : State} (h : .delay n ∈ clearChipEvents s) :
    n = 10 ∧ s.pins.clrPresent = true ∧ ((clearChipEvents s).map Event.minTime).sum = 10 * Config.timeUnit := by
  cases hclr : s.pins.clrPresent with
  | false =>
    rw [clearChipEvents, hclr, if_neg Bool.false_ne_true] at h
    exact absurd h (delay_notMem_frameEvents n _ _ _)
  | true =>
    rw [clearChipEvents, if_pos hclr] at h ⊢
    exact ⟨by simpa [Config.clrHoldUnits] using h, rfl, by simp [Event.minTime, Config.clrHoldUnits]⟩

/-- A command that waits is CLEAR or INIT, and its events are a clear of the chip after events without a wait. -/
theorem clearChipEvents_suffix_of_delay {i : Instr} {s : State} {n : Nat} (h : .delay n ∈ eventsOf i s) :
    (i = .clear ∨ ∃ V g, i = .init V g) ∧
      ∃ lead, (∀ m, .delay m ∉ lead) ∧ eventsOf i s = lead ++ clearChipEvents s := by
  cases i with
  | init V g =>
    refine ⟨.inr ⟨V, g, rfl⟩, (if s.initialized then [] else [.busBegin]) ++ setupEvents s, fun m => ?_, rfl⟩
    cases s.initialized <;> simp [delay_notMem_setupEvents]
  | clear =>
    have hinit : s.initialized = true := by
      by_contra hnot
      simp [eventsOf, clearEvents, hnot] at h
    exact ⟨.inl rfl, [], by simp, if_pos hinit⟩
  | update =>
    cases hinit : s.initialized <;> simp [eventsOf, updateEvents, hinit, delay_notMem_frameEvents] at h
  | teardown =>
    cases hinit : s.initialized <;> simp [eventsOf, teardownEvents, hinit] at h
  | _ => simp [eventsOf] at h

/-- Settles O55: the wait stands in the clear of the chip, and what precedes that takes no stated time. -/
theorem onlyTheClearPulseWaits : Obligations.OnlyTheClearPulseWaits := by
  intro i s t es n hexec htrace hdelay
  obtain ⟨-, -, rfl⟩ := (exec_next_iff i s t).1 hexec
  obtain rfl := List.append_cancel_left ((after_trace i s).symm.trans htrace)
  obtain ⟨hi, lead, hlead, hevents⟩ := clearChipEvents_suffix_of_delay hdelay
  rw [hevents] at hdelay ⊢
  obtain ⟨hn, hclr, htime⟩ := clearChipEvents_of_delay ((List.mem_append.1 hdelay).resolve_left (hlead n))
  exact ⟨hn, hclr, hi, by rw [List.map_append, List.sum_append, sum_minTime_of_no_delay hlead, htime, Nat.zero_add]⟩

end Sys2Proof.Machine

/-! PROOFS. The family of 44_conversion.md: TOVOLT (R151), TOCODE and its rounding (R152, R153), the zero reference
(R154), SETV (R155), and the laws of the two conversions (R156 to R158). -/

namespace Sys2Proof.Machine

/-! ## The rounding of the converter (R152, R153) -/

section
variable {D V V' k : Int}

theorem voltToCode_eq_tdiv (D V : Int) : voltToCode D V = Int.tdiv (8192 * V + D) (2 * D) := rfl

/-- The first three rows of R153: from half a step below `k` up to half a step above it the code is `k`. -/
theorem voltToCode_eq_of_nearest (hD : 0 < D) (hk : 0 ≤ k) (hlow : (2 * k - 1) * D ≤ 8192 * V)
    (hhigh : 8192 * V < (2 * k + 1) * D) : voltToCode D V = k := by
  have hkD : 0 ≤ k * D := mul_nonneg hk hD.le
  rw [voltToCode_eq_tdiv, Int.tdiv_eq_ediv_of_nonneg (by linarith), Int.ediv_eq_iff_of_pos (by linarith)]
  constructor <;> linarith

/-- The last two rows of R153: below zero one half is added and the fraction dropped toward zero. -/
theorem voltToCode_eq_neg (hD : 0 < D) (hk : 0 ≤ k) (hlow : -(2 * k + 3) * D < 8192 * V)
    (hhigh : 8192 * V ≤ -(2 * k + 1) * D) : voltToCode D V = -k := by
  have hkD : 0 ≤ k * D := mul_nonneg hk hD.le
  rw [voltToCode_eq_tdiv, ← neg_neg (8192 * V + D), Int.neg_tdiv, Int.tdiv_eq_ediv_of_nonneg (by linarith), neg_inj,
    Int.ediv_eq_iff_of_pos (by linarith)]
  constructor <;> linarith

theorem voltToCode_mono (hD : 0 < D) (h : V ≤ V') : voltToCode D V ≤ voltToCode D V' := by
  rw [voltToCode_eq_tdiv, voltToCode_eq_tdiv]
  exact Int.tdiv_le_tdiv (by omega) (by omega)

theorem voltToCode_zero (hD : 0 < D) : voltToCode D 0 = 0 :=
  voltToCode_eq_of_nearest hD le_rfl (by omega) (by omega)

/-- R157: below half a step no code above 0 is reached. -/
theorem voltToCode_nonpos (hD : 0 < D) (h : 8192 * V < D) : voltToCode D V ≤ 0 := by
  rcases le_or_gt V 0 with hV | hV
  · exact (voltToCode_mono hD hV).trans_eq (voltToCode_zero hD)
  · exact (voltToCode_eq_of_nearest hD le_rfl (by omega) (by omega)).le

/-- R156: a whole number of microvolts that is exactly the voltage of `k` converts to `k`. -/
theorem voltToCode_of_exact (hD : 0 < D) (hk : 0 ≤ k) (h : 4096 * V = k * D) : voltToCode D V = k :=
  voltToCode_eq_of_nearest hD hk (by linarith) (by linarith)

/-- R156: the floor loses less than 1 µV, which is at most half a step of 2 µV or more. -/
theorem voltToCode_of_floor (hD : 8192 ≤ D) (hk : 0 ≤ k) : voltToCode D (k * D / 4096) = k :=
  voltToCode_eq_of_nearest (by omega) hk (by linarith [Int.lt_mul_ediv_self_add (x := k * D) (k := 4096) (by decide)])
    (by linarith [Int.mul_ediv_self_le (x := k * D) (k := 4096) (by decide)])

end

/-- R11: `tdiv` drops the fraction of the quotient toward zero. -/
theorem tdiv_eq_trunc (n : Int) {d : Int} (hd : 0 < d) :
    n.tdiv d = if 0 ≤ (n : ℚ) / d then ⌊(n : ℚ) / d⌋ else ⌈(n : ℚ) / d⌉ := by
  have hsign : 0 ≤ (n : ℚ) / d ↔ 0 ≤ n := by
    rw [le_div_iff₀ (by exact_mod_cast hd), zero_mul, Int.cast_nonneg_iff]
  rw [if_congr hsign rfl rfl]
  lift d to ℕ using hd.le
  simp only [Int.cast_natCast, Rat.floor_intCast_div_natCast, Rat.ceil_intCast_div_natCast]
  split
  case isTrue hn => exact Int.tdiv_eq_ediv_of_nonneg hn
  case isFalse hn => rw [← Int.tdiv_eq_ediv_of_nonneg (by omega : 0 ≤ -n), Int.neg_tdiv, neg_neg]

/-- R152: the two lines for the code, in rationals and in integers, are equal. -/
theorem half_add_eq_div {D : Int} (hD : 0 < D) (V : Int) :
    (V : ℚ) * 4096 / D + 1 / 2 = ((8192 * V + D : Int) : ℚ) / ((2 * D : Int) : ℚ) := by
  have hne : (D : ℚ) ≠ 0 := by exact_mod_cast hD.ne'
  push_cast
  field_simp
  ring

/-! ## The full scale (R150) -/

theorem fullScale_pos {s : State} (h : s.fullScale ≠ 0) : 0 < s.fullScale := lt_of_le_of_ne (fullScale_nonneg s) h.symm

/-- R154: no legal gain makes the full scale 0. -/
theorem fullScale_eq_zero_iff {s : State} (hgain : s.gain = 1 ∨ s.gain = 2) : s.fullScale = 0 ↔ s.vref = 0 := by
  have hne : (s.gain.toNat : Int) ≠ 0 := by rcases hgain with h | h <;> rw [h] <;> decide
  rw [State.fullScale, mul_eq_zero, or_iff_left hne, Int.natCast_eq_zero, BitVec.toNat_eq]
  rfl

/-- R150: the full scale of legal parameters. -/
theorem fullScale_le {s : State} (hvref : s.vref.toNat ≤ 2700000) (hgain : s.gain = 1 ∨ s.gain = 2) :
    s.fullScale ≤ 5400000 := by
  have hgain2 : s.gain.toNat ≤ 2 := by rcases hgain with h | h <;> rw [h] <;> decide
  rw [State.fullScale]
  exact_mod_cast Nat.mul_le_mul hvref hgain2

/-! ## TOVOLT, TOCODE and SETV as one update each -/

theorem Accepts.respond {s : State} (h : Accepts s) (r : Response) : Accepts (s.respond r) :=
  ⟨h.pins_valid, h.alive⟩

/-- R151: TOVOLT emits nothing and writes nothing. -/
theorem exec_toVolt_of_accepts {s : State} (h : Accepts s) (code : Int) :
    exec (.toVolt code) s = .next (s.respond (answerOf (.toVolt code) s)) := by
  rw [exec_of_silent h rfl, after_of_silent rfl]
  rfl

/-- R152, R154: TOCODE emits nothing, and writes nothing but the draw counter. -/
theorem exec_toCode_of_accepts {s : State} (h : Accepts s) (V : Int) :
    exec (.toCode V) s = .next ((s.convert V).2.respond (answerOf (.toCode V) s)) := by
  rw [exec_of_silent h rfl, after_of_silent rfl]
  rfl

/-- R152: with `D` not 0 nothing is drawn. -/
theorem exec_toCode_of_ne {s : State} (h : Accepts s) (V : Int) (hD : s.fullScale ≠ 0) :
    exec (.toCode V) s = .next (s.respond (answerOf (.toCode V) s)) := by
  rw [exec_toCode_of_accepts h, convert_of_ne s V hD]

/-- R155: SETV is the conversion, then SET's clamp and store, in either lifecycle state. -/
theorem exec_setV_of_accepts {s : State} (h : Accepts s) (sel : Selector) (V : Int) :
    exec (.setV sel V) s =
      .next (((s.convert V).2.setChannels sel (clampCode (s.convert V).1)).respond 0) := by
  rw [exec_of_silent h rfl, after_of_silent rfl]
  rfl

/-- The state SETV leaves, field by field: selector by selector, the one code in each selected channel. -/
theorem convert_setChannels_respond (s : State) (sel : Selector) (V : Int) (u : Code) (r : Response) :
    ((s.convert V).2.setChannels sel u).respond r = { s with
      chA := if sel = .b then s.chA else u
      chB := if sel = .a then s.chB else u
      responses := s.responses ++ [r]
      draws := (s.convert V).2.draws } := by
  rw [convert_state]
  cases sel <;> rfl

/-- R123: a code at most 0 is stored as 0. -/
theorem clampCode_of_nonpos {c : Int} (h : c ≤ 0) : clampCode c = 0 := by
  have hclamp := clampCode_toNat c
  have hzero : (clampCode c).toNat = 0 := by omega
  exact BitVec.eq_of_toNat_eq hzero

/-! ## The obligations of TOVOLT, TOCODE and SETV -/

/-- Settles O26: the product fits the response, so its two's complement reading is exact. -/
theorem toVoltAnswersProduct : Obligations.ToVoltAnswersProduct := by
  intro s code haccepts hwf
  refine ⟨_, exec_toVolt_of_accepts haccepts code, ?_⟩
  rw [answerOf_toVolt hwf, State.fullScale, mul_assoc]

/-- Settles O27: the answer is the truncated division, and that is the truncation of the quotient R152 writes. -/
theorem toCodeRoundsHalfUp : Obligations.ToCodeRoundsHalfUp := by
  intro s V haccepts hwf D q (hD : s.fullScale ≠ 0)
  have hanswer : (answerOf (.toCode V) s).toInt = Int.tdiv (8192 * V + D) (2 * D) := answerOf_toCode hwf hD
  have hpos : 0 < D := fullScale_pos hD
  have hq : q = ((8192 * V + D : Int) : ℚ) / ((2 * D : Int) : ℚ) := half_add_eq_div hpos V
  refine ⟨_, exec_toCode_of_ne haccepts V hD, hanswer, ?_⟩
  rw [hanswer, hq]
  exact tdiv_eq_trunc _ (by omega)

/-- Settles O28: the five rows are the two sides of the rounding, the third row being `k = 0` on the upper side and the
fourth `k = 0` on the lower. -/
theorem toCodeRoundingTable : Obligations.ToCodeRoundingTable := by
  intro s V haccepts hwf D (hD : s.fullScale ≠ 0)
  have hpos : 0 < D := fullScale_pos hD
  have hanswer : (answerOf (.toCode V) s).toInt = voltToCode D V := answerOf_toCode hwf hD
  refine ⟨_, _, exec_toCode_of_ne haccepts V hD, respond_responses _ _, ?_⟩
  rw [hanswer]
  refine ⟨fun k hk hlow hhigh => ?_, fun k hk hlow hhigh => ?_, fun hlow hhigh => ?_, fun hlow hhigh => ?_,
    fun k hk hlow hhigh => ?_⟩
  · exact voltToCode_eq_of_nearest hpos hk (by linarith) hhigh
  · exact voltToCode_eq_of_nearest hpos (by omega) (by linarith) (by linarith)
  · exact voltToCode_eq_of_nearest hpos le_rfl (by linarith) (by linarith)
  · exact voltToCode_eq_neg (k := 0) hpos le_rfl (by linarith) (by linarith)
  · exact voltToCode_eq_neg hpos (by omega) hlow hhigh

/-- Settles O30: the stored code is the clamp of the converter's value, drawn or computed. -/
theorem setVStoresConvertedVoltage : Obligations.SetVStoresConvertedVoltage := by
  intro s sel V haccepts D
  refine ⟨clampCode (s.convert V).1, (s.convert V).2.draws, ?_, fun (hD : s.fullScale ≠ 0) => ?_⟩
  · rw [exec_setV_of_accepts haccepts, convert_setChannels_respond]
  · rw [convert_of_ne s V hD, clampCode_toNat]
    exact ⟨rfl, rfl⟩

/-- Settles O29: with `D = 0` too the converter changes the draw counter only, and SETV's code is the clamp of the one
value drawn. -/
theorem zeroReferenceCompletes : Obligations.ZeroReferenceCompletes := by
  intro s V sel haccepts
  refine ⟨fun hgain => ?_, fun _ => ⟨?_, ?_⟩⟩
  · rw [← fullScale_eq_zero_iff hgain, State.fullScale]
    norm_cast
  · rw [exec_toCode_of_accepts haccepts, convert_state]
    exact ⟨_, _, rfl⟩
  · obtain ⟨u, n, hexec, -⟩ := setVStoresConvertedVoltage s sel V haccepts
    exact ⟨u, n, hexec⟩

/-! ## The laws (R156 to R158) -/

/-- Settles O31: TOVOLT leaves the parameters as they are, so TOCODE divides by the factor TOVOLT multiplied by. -/
theorem conversionRoundTrip : Obligations.ConversionRoundTrip := by
  intro s c V haccepts hc D hwfc hwfV (hpos : 0 < s.fullScale)
  refine ⟨_, _, _, _, exec_toVolt_of_accepts haccepts c, respond_responses _ _,
    exec_toCode_of_ne (haccepts.respond _) V hpos.ne', respond_responses _ _, ?_⟩
  rw [answerOf_toVolt hwfc, answerOf_toCode hwfV (s := s.respond _) hpos.ne']
  refine ⟨fun hexact => voltToCode_of_exact hpos hc hexact.symm, fun hstep hfloor => ?_⟩
  rw [hfloor]
  exact voltToCode_of_floor hstep hc

/-- Settles O32: each answer is the exact value, so the order of the values is the order of the answers. -/
theorem conversionMonotone : Obligations.ConversionMonotone := by
  intro s haccepts D (hpos : 0 < s.fullScale)
  refine ⟨fun V V' hwf hwf' hle => ?_, fun c c' hwf hwf' hlt => ?_, fun V sel hV => ?_⟩
  · refine ⟨_, _, _, _, exec_toCode_of_ne haccepts V hpos.ne', respond_responses _ _,
      exec_toCode_of_ne haccepts V' hpos.ne', respond_responses _ _, ?_⟩
    rw [answerOf_toCode hwf hpos.ne', answerOf_toCode hwf' hpos.ne']
    refine ⟨voltToCode_mono hpos hle, ?_⟩
    rintro rfl
    exact voltToCode_zero hpos
  · refine ⟨_, _, _, _, exec_toVolt_of_accepts haccepts c, respond_responses _ _,
      exec_toVolt_of_accepts haccepts c', respond_responses _ _, ?_⟩
    rw [answerOf_toVolt hwf, answerOf_toVolt hwf']
    exact mul_lt_mul_of_pos_right hlt hpos
  · have hbelow : 8192 * V < s.fullScale := hV.elim (fun h => by omega) id
    refine ⟨_, exec_setV_of_accepts haccepts sel V, ?_⟩
    rw [convert_of_ne s V hpos.ne', clampCode_of_nonpos (voltToCode_nonpos hpos hbelow)]
    cases sel <;> simp [Selector.covers]

/-- Settles O33: both answers are the exact values, and those are bounded by the operand's range times the largest full
scale, or over the smallest. -/
theorem conversionsFitTheResponse : Obligations.ConversionsFitTheResponse := by
  intro s x haccepts hfits hvref hgain
  refine ⟨_, _, _, _, exec_of_silent haccepts rfl, after_responses (.toVolt x) s,
    exec_of_silent haccepts rfl, after_responses (.toCode x) s, ?_⟩
  have hcode : s.vref ≠ 0 → (answerOf (.toCode x) s).toInt = voltToCode s.fullScale x := fun h =>
    answerOf_toCode hfits ((fullScale_eq_zero_iff hgain).not.2 h)
  have hone : s.vref = 1 → s.gain = 1 → (answerOf (.toCode x) s).toInt = voltToCode 1 x := fun hv hg => by
    rw [hcode (by rw [hv]; decide), State.fullScale, hv, hg]
    rfl
  have hrange : -2147483648 ≤ x ∧ x ≤ 2147483647 := by simpa [fitsImm] using hfits
  rw [answerOf_toVolt hfits]
  refine ⟨?_, by rw [State.fullScale, mul_assoc], fun h => ?_, ?_, ?_, ?_⟩
  · have hx : |x| ≤ 2147483648 := abs_le.2 (by omega)
    calc |x * s.fullScale| = |x| * s.fullScale := by rw [abs_mul, abs_of_nonneg (fullScale_nonneg s)]
      _ ≤ 2147483648 * 5400000 :=
        mul_le_mul hx (fullScale_le hvref hgain) (fullScale_nonneg s) (by norm_num)
      _ = 11596411699200000 := by norm_num
  · rw [hcode h]
    exact voltToCode_bound (by omega) (fullScale_pos ((fullScale_eq_zero_iff hgain).not.2 h))
  · rintro rfl hv hg
    rw [State.fullScale, hv, hg]
    rfl
  · rintro rfl hv hg
    exact hone hv hg
  · rintro rfl hv hg
    exact hone hv hg

end Sys2Proof.Machine

/-! PROOFS. The family of 45_parameters.md: SETVREF (R170), SETGAIN (R171), SETCLK and how long its word stands
(R172, R24, R31), and what INIT shares with the setters (R173). -/

namespace Sys2Proof.Machine

/-! ## The setters as one update each -/

section
variable {s : State}

theorem exec_setVref_of_accepts (h : Accepts s) (V : Int) :
    exec (.setVref V) s = .next ((s.storeVref V).respond 0) := by
  rw [exec_of_silent h rfl, after_of_silent rfl]
  rfl

theorem exec_setGain_of_accepts (h : Accepts s) (g : Int) :
    exec (.setGain g) s = .next ((s.storeGain g).respond 0) := by
  rw [exec_of_silent h rfl, after_of_silent rfl]
  rfl

theorem exec_setClk_of_accepts (h : Accepts s) (k : ClockWord) :
    exec (.setClk k) s = .next ((s.storeClk k).respond 0) := by
  rw [exec_of_silent h rfl, after_of_silent rfl]
  rfl

end

/-- Settles O34: the stored voltage is the clamp, range by range. -/
theorem setVrefStoresClamped : Obligations.SetVrefStoresClamped := by
  intro s V haccepts
  have hclamp := clampVref_toNat V
  exact ⟨clampVref V, exec_setVref_of_accepts haccepts V, by omega, by omega, by omega⟩

/-- Settles O35: the stored gain is the clamp, range by range. -/
theorem setGainStoresClamped : Obligations.SetGainStoresClamped := by
  intro s g haccepts
  have hclamp := clampGain_toNat g
  exact ⟨clampGain g, exec_setGain_of_accepts haccepts g, by omega, by omega⟩

/-- Settles O10: INIT clamps its two operands as the setters do, and it is not SETCLK. -/
theorem initStoresAsTheSetters : Obligations.InitStoresAsTheSetters := by
  intro s V g hready
  have haccepts := hready.accepts
  exact ⟨_, _, _, exec_of_ready hready _, exec_setVref_of_accepts haccepts V, exec_setGain_of_accepts haccepts g,
    rfl, rfl, registersAfter_clk (i := .init V g) (by simp) s⟩

/-! ## The clock word along a run (R24, R31) -/

/-- An input that is neither a reset nor a SETCLK, the two writers of `clk`. -/
def Input.LeavesClk (x : Input) : Prop :=
  (∀ p, x ≠ .reset p) ∧ ∀ w j, x = .command w → decode w ≠ .instr (.setClk j)

/-- From `s` to `t` the clock word stayed, and every transaction opened between them carries it. -/
structure SameClk (s t : State) : Prop where
  clk : t.clk = s.clk
  opened : ∃ es, t.trace = s.trace ++ es ∧ ∀ k, .txnBegin k ∈ es → k = s.clk

section
variable {s t u : State}

theorem SameClk.of_silent (hclk : t.clk = s.clk) (htrace : t.trace = s.trace) : SameClk s t :=
  ⟨hclk, [], by simp [htrace], by simp⟩

theorem SameClk.trans (h : SameClk s t) (h' : SameClk t u) : SameClk s u := by
  obtain ⟨hclk, es, htrace, hopened⟩ := h
  obtain ⟨hclk', es', htrace', hopened'⟩ := h'
  refine ⟨hclk'.trans hclk, es ++ es', by rw [htrace', htrace, List.append_assoc], fun k hk => ?_⟩
  rcases List.mem_append.1 hk with hk | hk
  · exact hopened k hk
  · exact (hopened' k hk).trans hclk

/-- R33: a command other than SETCLK leaves the clock word. -/
theorem sameClk_after {i : Instr} (h : ∀ k, i ≠ .setClk k) (s : State) : SameClk s (after i s) :=
  ⟨registersAfter_clk h s, eventsOf i s, after_trace i s, fun _ => clk_of_txnBegin⟩

/-- A step takes at most the first input, and unless that is a writer the clock word stays. -/
theorem sameClk_of_step (hstep : step s = .next t) (hhead : ∀ x ∈ s.inputs.head?, x.LeavesClk) :
    t.inputs = s.inputs.tail ∧ SameClk s t := by
  obtain ⟨hin, -, rfl⟩ | ⟨w, rest, i, hin, hdec, hexec⟩ | ⟨w, rest, why, hin, -, -, rfl⟩ |
    ⟨pins, rest, hin, -, -⟩ | ⟨answer, rest, hin, rfl⟩ := step_next_cases hstep
  case inl => exact ⟨by simp [hin], .of_silent rfl rfl⟩
  case inr.inl =>
    obtain ⟨-, hnotClk⟩ := hhead (.command w) (by simp [hin])
    obtain ⟨-, -, rfl⟩ := (exec_next_iff i _ t).1 hexec
    have hi : ∀ k, i ≠ .setClk k := fun k hk => hnotClk w k rfl (hk ▸ hdec)
    have htaken : SameClk s { s with inputs := rest } := .of_silent rfl rfl
    exact ⟨by simp [hin], htaken.trans (sameClk_after hi _)⟩
  case inr.inr.inl => exact ⟨by simp [hin], .of_silent rfl rfl⟩
  case inr.inr.inr.inl =>
    obtain ⟨hnotReset, -⟩ := hhead (.reset pins) (by simp [hin])
    exact absurd rfl (hnotReset pins)
  case inr.inr.inr.inr => exact ⟨by simp [hin], .of_silent rfl rfl⟩

/-- A run that completes begins with a step that does. -/
theorem step_of_run_succ {n : Nat} (h : Host.Core.run Sys2Proof.core (n + 1) s = .next u) :
    ∃ t, step s = .next t ∧ Host.Core.run Sys2Proof.core n t = .next u := by
  have hcore : Sys2Proof.core.step s = step s := rfl
  cases hstep : step s <;> simp only [Host.Core.run, hcore, hstep, reduceCtorEq] at h
  case next t => exact ⟨t, rfl, h⟩

/-- The induction over the steps: each takes its input off the list. -/
theorem sameClk_of_run (n : Nat) (hrun : Host.Core.run Sys2Proof.core n s = .next u)
    (hinputs : ∀ x ∈ s.inputs.take n, x.LeavesClk) : SameClk s u := by
  induction n generalizing s with
  | zero => cases hrun; exact .of_silent rfl rfl
  | succ n ih =>
    obtain ⟨t, hstep, hrest⟩ := step_of_run_succ hrun
    have hhead : ∀ x ∈ s.inputs.head?, x.LeavesClk := fun x hx =>
      hinputs x (List.mem_of_mem_head? (by simpa [List.head?_take] using hx))
    obtain ⟨htail, hfirst⟩ := sameClk_of_step hstep hhead
    have hlater : ∀ x ∈ t.inputs.take n, x.LeavesClk := fun x hx =>
      hinputs x (List.mem_of_mem_tail (by rwa [List.tail_take_eq_take_tail, Nat.add_sub_cancel, ← htail]))
    exact hfirst.trans (ih hrest hlater)

end

/-! ## The commands that open a transaction (R132, R142, R111) -/

section
variable {s : State}

theorem after_update_opens (hinit : s.initialized = true) :
    ∃ es, (after .update s).trace = s.trace ++ .txnBegin s.clk :: es := by
  rw [after_trace, eventsOf, updateEvents, if_pos hinit]
  exact ⟨_, rfl⟩

theorem after_clear_opens (hinit : s.initialized = true) (hclr : s.pins.clrPresent = false) :
    ∃ es, (after .clear s).trace = s.trace ++ .txnBegin s.clk :: es := by
  rw [after_trace, eventsOf, clearEvents_of_not_clrPresent hinit hclr]
  exact ⟨_, rfl⟩

theorem txnBegin_mem_initEvents (hclr : s.pins.clrPresent = false) : .txnBegin s.clk ∈ initEvents s := by
  simp [initEvents_eq, hclr]

end

/-- Settles O36: SETCLK answers with the word in `clk` and no event, a run without a writer keeps it, and a command's
transactions carry the word of the state it runs in. -/
theorem setClkStoresWordForLaterFrames : Obligations.SetClkStoresWordForLaterFrames := by
  refine ⟨fun s k haccepts => ⟨_, exec_setClk_of_accepts haccepts k, rfl, fun n u hreset hsetClk hrun => ?_⟩,
    fun _ => rfl⟩
  have hinputs : ∀ x ∈ s.inputs.take n, x.LeavesClk := fun x hx =>
    ⟨fun p hp => hreset p (hp ▸ hx), fun w j hw => hsetClk w j (hw ▸ hx)⟩
  obtain ⟨hclk : u.clk = k, hopened⟩ := sameClk_of_run n hrun hinputs
  subst hclk
  refine ⟨rfl, hopened, fun i v es k' hexec htrace hmem => ?_, fun hready => ⟨fun hinit => ?_, fun hinit hclr => ?_,
    fun hclr V g => ?_⟩⟩
  · obtain ⟨-, -, rfl⟩ := (exec_next_iff i u v).1 hexec
    obtain rfl := List.append_cancel_left ((after_trace i u).symm.trans htrace)
    exact clk_of_txnBegin hmem
  · obtain ⟨es, htrace⟩ := after_update_opens hinit
    exact ⟨_, es, exec_of_ready hready _, htrace⟩
  · obtain ⟨es, htrace⟩ := after_clear_opens hinit hclr
    exact ⟨_, es, exec_of_ready hready _, htrace⟩
  · exact ⟨_, _, exec_of_ready hready _, after_trace _ u, txnBegin_mem_initEvents hclr⟩

end Sys2Proof.Machine

/-! PROOFS. The family of 60_exceptions.md: no command faults (R180), the block waits for ever on an event that is
never completed (R186), and an idle block is quiet (R183). -/

namespace Sys2Proof.Machine

/-! ## Commands that complete and commands that are stuck (R180, R186) -/

/-- The counterpart of `exec_next_iff`: an accepted command is stuck when it has events and nothing completes them. -/
theorem exec_stuck_iff (i : Instr) (s : State) :
    exec i s = .fault .capabilityStuck ↔ Accepts s ∧ s.capabilitiesAnswer = false ∧ eventsOf i s ≠ [] := by
  rw [exec_eq_accept, accept_stuck_iff, capabilitiesComplete_emitted (es := eventsOf i s) (by simp),
    Bool.or_eq_false_iff, List.isEmpty_eq_false_iff]
  constructor
  · rintro ⟨hvalid, halive, hstuck⟩; exact ⟨⟨hvalid, halive⟩, hstuck⟩
  · rintro ⟨⟨hvalid, halive⟩, hstuck⟩; exact ⟨hvalid, halive, hstuck⟩

/-- A command has events in a ready state exactly when running it changes the trace. -/
theorem changes_trace_iff_of_ready {s : State} (h : Ready s) (i : Instr) :
    (∃ t, exec i s = .next t ∧ t.trace ≠ s.trace) ↔ eventsOf i s ≠ [] := by
  simp [exec_of_ready h]

/-- Settles O46: what the command would emit does not depend on the capabilities, so that its events are those of the
same state made ready. -/
theorem stuckOnlyOnPendingEvents : Obligations.StuckOnlyOnPendingEvents := by
  intro i s haccepts
  have hready : Ready { s with capabilitiesAnswer := true } := ⟨haccepts.pins_valid, haccepts.alive, rfl⟩
  have hevents : eventsOf i { s with capabilitiesAnswer := true } = eventsOf i s :=
    eventsOf_congr rfl rfl rfl rfl rfl i
  calc exec i s = .fault .capabilityStuck
    _ ↔ s.capabilitiesAnswer = false ∧ eventsOf i s ≠ [] := by rw [exec_stuck_iff, and_iff_right haccepts]
    _ ↔ _ := and_congr_right' (hevents ▸ (changes_trace_iff_of_ready hready i).symm)

/-- Settles O44: a ready block completes every command, in the state `after` it. -/
theorem everyCommandCompletes : Obligations.EveryCommandCompletes :=
  fun i _ hready => ⟨_, exec_of_ready hready i⟩

/-! ## The idle block (R183) -/

theorem step_of_no_input {s : State} (h : s.inputs = []) : step s = s.idle := by
  simp only [step, h]

theorem idle_of_valid {s : State} (hvalid : s.pins.valid = true) : s.idle = .next s := if_pos hvalid

/-- Settles O56: a step without an input is a wait, and a wait in a valid configuration changes nothing. -/
theorem idleBlockKeepsItsState : Obligations.IdleBlockKeepsItsState :=
  fun _ hinputs hvalid => (step_of_no_input hinputs).trans (idle_of_valid hvalid)

end Sys2Proof.Machine

/-! PROOFS. The family of 70_reset_and_hazards.md: reset restarts the block (R210, R212, R213), and between SET and UPDATE
the chip lags behind the registers (R215). -/

namespace Sys2Proof.Machine

/-! ## SET reaches the chip only with UPDATE (R215) -/

/-- The chip sees events only, so that a command without any leaves its view (R36). -/
theorem chipView_after_of_silent {i : Instr} {s : State} (h : eventsOf i s = []) :
    chipView (after i s).pins (after i s).trace = chipView s.pins s.trace := by
  rw [after_pins, after_trace, h, List.append_nil]

theorem channel_after_set {sel : Selector} {ch : Channel} (hcovers : sel.covers ch = true) (code : Int) (s : State) :
    (after (.set sel code) s).channel ch = clampCode code := by
  have hafter : after (.set sel code) s = (s.setChannels sel (clampCode code)).respond 0 := after_of_silent rfl
  rw [hafter, respond_channel, setChannels_channel, if_pos hcovers]

/-- Settles O54: SET emits nothing, and the UPDATE after it sends a frame of the registers SET left. -/
theorem setReachesChipOnlyWithUpdate : Obligations.SetReachesChipOnlyWithUpdate := by
  intro s sel code hready hinv hinit
  have hset := exec_of_ready hready (.set sel code)
  have hready' : Ready (after (.set sel code) s) := hready.after_command (by simp)
  have hinit' : (after (.set sel code) s).initialized = true :=
    (after_initialized_of_ne_init (by simp) s).trans hinit
  have hupdate := exec_of_ready hready' .update
  have hstored : ∀ ch, sel.covers ch = true →
      (((after (.set sel code) s).channel ch).toNat : Int) = max 0 (min code 4095) := fun ch hcovers => by
    rw [channel_after_set hcovers, clampCode_toNat]
  refine ⟨_, _, hset, hupdate, chipView_after_of_silent rfl,
    chipViewFollowsRegisters _ _ _ (hinv.exec hset) (.inr ⟨hinit', .inl rfl⟩) hupdate, ?_, ?_⟩
  · rintro (rfl | rfl) <;> exact hstored .a rfl
  · rintro (rfl | rfl) <;> exact hstored .b rfl

/-! ## Reset (R210, R212, R213) -/

/-- The counterpart of `assertReset_of_valid`: straps that name one line twice are no configuration (R7). -/
theorem assertReset_of_invalid {pins : PinConfig} (hinvalid : pins.valid = false) (s : State) :
    s.assertReset pins = .refused .invalidConfiguration :=
  if_neg (Bool.eq_false_iff.1 hinvalid)

/-- Settles O38: a reset step reads nothing of the block but what goes on, and the straps decide whether it is taken. -/
theorem resetRestartsTheBlock : Obligations.ResetRestartsTheBlock := by
  intro s pins rest hinputs
  rw [step_of_reset hinputs]
  exact ⟨fun hvalid => assertReset_of_valid hvalid _, fun hinvalid => assertReset_of_invalid hinvalid _⟩

end Sys2Proof.Machine
